-- ==== Sys2Proof/Word.lean ====
section
/-! DEFINITION. The machine's word and byte types and the modulus of word arithmetic.
Spec: 00_scope.md rule R6 (every coordinate, operand and result is a 256-bit unsigned integer, `XLEN = 256`,
`W = 2^256`) and 40_field_engine.md rule R90 (no signed quantity exists anywhere in the core). -/

namespace Sys2Proof

/-- A 256-bit unsigned word, `XLEN = 256` (R6). -/
abbrev Word := BitVec 256

/-- One byte: the width of `CMD` (R31) and of the byte view of a word (R52). -/
abbrev Byte := BitVec 8

/-- `W = 2^256` (R6). -/
abbrev W : Nat := 2 ^ 256

end Sys2Proof
end

