-- ==== Sys2Proof/Config.lean ====
section
/-! DEFINITION. What an implementation of the core fixes and the spec leaves open: the one open parameter
`BUDGET_W` (00_scope.md rule R11, 92_eei_decisions.md D15); and the iteration bounds a model may use as fuel
(00_scope.md rule R12, 41_inverse_engine.md rule R139), which are no state of the machine. -/

namespace Sys2Proof.Config

/-- `BUDGET_W - 1`. The spec leaves `BUDGET_W` open ("a positive natural number", R11): the constant has no body, so
no proof can see which number it is, and every statement holds for every width. Log entry 3. -/
opaque budgetWidthPred : Nat

/-- `BUDGET_W`, the bit width of `BUDGET` and `BURN_AMT` (R11, R32): open, and at least one bit. -/
def budgetWidth : Nat := budgetWidthPred + 1

/-- `EXP_MAX_ITER` (R12): a modular exponentiation runs at most the exponent's bit length of passes. -/
def expMaxIter : Nat := 256

/-- Fuel for the outer loop of the inverse engine. R139: "A model that needs fuel can take 512 for the outer loop and
256 for each inner loop"; 509 outer iterations suffice for every word that is not a multiple of `N`. Log entry 6. -/
def invOuterFuel : Nat := 512

/-- Fuel for each of the two halving loops of one outer iteration (R139). -/
def invInnerFuel : Nat := 256

end Sys2Proof.Config

namespace Sys2Proof

/-- A resource budget or a burn amount: `BUDGET_W` bits (R11, R32). -/
abbrev Budget := BitVec Config.budgetWidth

end Sys2Proof
end

