-- ==== Sys2Proof/Syntax.lean ====
section
/-! DEFINITION. The core's command set and the host's side of its register interface as terms.
`Instr` is the command table of 30_encoding.md rule R71 (one constructor per row of spec/opcode_table.json); a command
has no operand fields (R70, R72), so no constructor has arguments. Beside it: the registers of the index map
(20_memory.md rule R51), the two host transactions `W index data` and `R index` (R51, R78), the lines of the host
script notation (R78) and its pseudo-commands (R79), which are how a program reaches a core without a program
counter (10_state.md rule R27). -/

namespace Sys2Proof

/-- The fourteen commands (R71). -/
inductive Instr where
  /-- 0x01, the double-width multiply (R92). -/
  | mulw
  /-- 0x02, modular addition (R94). -/
  | addmod
  /-- 0x03, modular subtraction (R95). -/
  | submod
  /-- 0x04, Montgomery reduction of a double-width value (R97). -/
  | redc
  /-- 0x05, Montgomery encode (R101). -/
  | tomont
  /-- 0x06, Montgomery decode (R103). -/
  | frommont
  /-- 0x07, Montgomery-domain product (R105). -/
  | montmul
  /-- 0x08, Montgomery-domain power (R108). -/
  | montexp
  /-- 0x10, Montgomery-domain inverse (R131). -/
  | montinv
  /-- 0x11, Montgomery-domain division (R141). -/
  | montdiv
  /-- 0x20, test for the point at infinity (R151). -/
  | isinf
  /-- 0x21, coordinate range check (R152). -/
  | rangechk
  /-- 0x22, curve-equation evaluator (R153). -/
  | oncurve
  /-- 0x30, group addition of two affine points (R171). -/
  | ecadd
  deriving DecidableEq, Repr

/-- The registers of the index map (R51). The aliases of R24 (`X1 = A0`, `Y1 = A1`, `X2 = A2`, `Y2 = A3`, `X3 = Q0`,
`Y3 = Q1`) are names for the same registers. -/
inductive Reg where
  | a0 | a1 | a2 | a3 | q0 | q1 | cmd | status | budget | burnAmt
  deriving DecidableEq, Repr

/-- A register index: the core's one address space has 16 (R50). -/
abbrev RegIndex := Fin 16

/-- One access of the host to the register space (R51, R78): `W index data` or `R index`, whole registers only (R54). -/
inductive Transaction where
  | write (index : RegIndex) (data : Nat)
  | read (index : RegIndex)
  deriving DecidableEq, Repr

/-- The data of a script's write: a number, or `<the value read>` by the read before it (`MOVQ`, R79). -/
inductive Value where
  | lit (n : Nat)
  | lastRead
  deriving DecidableEq, Repr

/-- The fields of `STATUS` (R28) that `IFSET` can name (R78). -/
inductive StatusField where
  | phase | outv | abort | burnReq | illCmd
  deriving DecidableEq, Repr

/-- One line of the host script notation (R78), and the reset event of R230, which the notation has no line for (log
entry 5). A label's name is a number here. -/
inductive HostLine where
  /-- `WR reg, value`: the transaction `W index value`. -/
  | wr (index : RegIndex) (value : Value)
  /-- `RD reg`: the transaction `R index`. -/
  | rd (index : RegIndex)
  /-- `<MNEMONIC>`: the transaction `W 6 code`. -/
  | command (i : Instr)
  /-- `WAIT`: the host reads `STATUS` until `PHASE = DONE`. -/
  | wait
  /-- `label:` names the next line. -/
  | label (name : Nat)
  /-- `IFSET field, label`: continue at `label` if the field of the last `STATUS` value read is 1. -/
  | ifset (field : StatusField) (target : Nat)
  /-- `HALT`: the end of the script. -/
  | halt
  /-- The reset event (R230). -/
  | reset
  deriving DecidableEq, Repr

/-- The pseudo-commands of the script notation (R79). -/
inductive PseudoLine where
  /-- `RUN <MNEMONIC>`. -/
  | run (i : Instr)
  /-- `MOVQ Ai, Qj`. -/
  | movq (dst : Fin 4) (src : Fin 2)
  /-- `LDPT x1, y1, x2, y2`. -/
  | ldpt (x1 y1 x2 y2 : Nat)
  /-- `LDIN <128 bytes>`. Another number of bytes is ill formed; what its expansion does is log entry 17. -/
  | ldin (bytes : List Byte)
  /-- `STOUT`. -/
  | stout
  deriving DecidableEq, Repr

end Sys2Proof
end

