-- ==== Sys2Proof/Machine/State.lean ====
section
/-! DEFINITION. The core's state as plain data, the reasons a step can stop, and the state after reset. Spec:
10_state.md rules R20 to R38, 70_reset_and_hazards.md rule R230. -/

namespace Sys2Proof.Machine

/-- `STATUS.PHASE` (R28, R29). The code 3 is never produced, so there is no fourth phase. -/
inductive Phase where
  /-- 0: no command since reset. -/
  | idle
  /-- 1: a command is executing. -/
  | busy
  /-- 2: the last command has completed. -/
  | done
  deriving DecidableEq, Repr

/-- The fields of `STATUS` (R28). Bits 31:6 are reserved and read as 0: the 32-bit word is `statusWord` in Flags.lean. -/
structure Status where
  /-- Bits 1:0. -/
  phase : Phase
  /-- Bit 2: `Q0` and `Q1` hold the result of the last completed command. -/
  outv : Bool
  /-- Bit 3: the last completed command ended through the failure path. -/
  abort : Bool
  /-- Bit 4: a burn request is presented, with its amount in `BURN_AMT`. -/
  burnReq : Bool
  /-- Bit 5: the last write to `CMD` carried a reserved code and was not executed. -/
  illCmd : Bool
  deriving DecidableEq, Repr

/-- The three error kinds (60_exceptions.md rule R200). They are a diagnosis of the model's: no register shows one
(R201). -/
inductive ErrorKind where
  /-- Model code 1: a supplied non-infinity coordinate is not below `N`. -/
  | coordinateOutOfRange
  /-- Model code 2: a supplied non-infinity point fails the curve equation. -/
  | pointNotOnCurve
  /-- Model code 3: the defensive case of step 5 (R177). -/
  | invalidSameXDifferentY
  deriving DecidableEq, Repr

/-- The burn descriptor's form (R204): how many 32-byte words the input and the output region span. -/
structure BurnDescriptor where
  inWords : Nat
  outWords : Nat
  deriving DecidableEq, Repr

/-- The events of the trace (R37). -/
inductive Event where
  /-- `Return(cmd, q0, q1)`. -/
  | returned (code : Byte) (q0 q1 : Word)
  /-- `Burn(desc, amount)`. -/
  | burn (desc : BurnDescriptor) (amount : Budget)
  /-- `Abort(cmd)`, with the error kind recorded for diagnosis only (R37). -/
  | aborted (code : Byte) (kind : ErrorKind)
  /-- `Rejected(code)`. -/
  | rejected (code : Byte)
  deriving DecidableEq, Repr

/-- The outcome of a command's function on the sampled operands (R33). -/
inductive CommandOutcome where
  /-- `Ok(q0, q1)`: success with two result words. -/
  | ok (q0 q1 : Word)
  /-- `Fail(kind)`: the failure path is taken. It carries the budget sampled for the command (R15, R32). -/
  | fail (kind : ErrorKind) (sampled : Budget)
  /-- `Illegal`: the code is reserved and nothing is computed. -/
  | illegal
  /-- `Diverge`: the command's loop never ends. -/
  | diverge
  deriving DecidableEq, Repr

/-- A value returned by a read of the host's (R82): the index it read and the number it got. -/
structure ReadEntry where
  index : RegIndex
  value : Nat
  deriving DecidableEq, Repr

/-- The core's state (R20), and the host's side of one run (R78, R82). A register that "holds no value" is `none`:
that is a state the spec itself gives the register (R20 "256 bits each, or no value", R22 "In a model: a register is
an optional 256-bit word"), not the want of a reset value. Log entries 1, 4 and 5. -/
structure State where
  /-- Operand register `A0` (R21). -/
  a0 : Option Word
  /-- Operand register `A1` (R21). -/
  a1 : Option Word
  /-- Operand register `A2` (R21). -/
  a2 : Option Word
  /-- Operand register `A3` (R21). -/
  a3 : Option Word
  /-- Result register `Q0` (R23): it holds a value exactly when `OUTV = 1`. -/
  q0 : Option Word
  /-- Result register `Q1` (R23). -/
  q1 : Option Word
  /-- `CMD`, 8 bits (R31). -/
  cmd : Byte
  /-- `STATUS` (R28). -/
  status : Status
  /-- `BUDGET`, `BUDGET_W` bits (R32). -/
  budget : Option Budget
  /-- `BURN_AMT`, `BUDGET_W` bits (R32): it holds a value exactly when `BURN_REQ = 1`. -/
  burnAmt : Option Budget
  /-- The event trace, oldest first (R37): the model's bookkeeping, not hardware. -/
  trace : List Event
  /-- THE HOST'S, not the core's: the script the host is running (R78). -/
  script : List HostLine
  /-- THE HOST'S: the position of the script's next line. -/
  line : Nat
  /-- THE HOST'S: the values its reads have returned, oldest first (R82). -/
  reads : List ReadEntry
  deriving DecidableEq, Repr

/-- The machine stops with no fault: the core's one exceptional mechanism, the failure path, ends in a next state
(R203), arithmetic never faults (R90), and a command that never completes is a state that stays BUSY (R29). So the
type has no constructor, which is safe: there is nothing a step could hide behind one. -/
inductive Fault where
  deriving DecidableEq, Repr

/-- The reasons a step has no meaning. -/
inductive Refusal where
  /-- An instruction with no meaning in this model yet. No arm of `exec` answers with it. Safe. -/
  | notModelled (mnemonic : String)
  /-- Raised at command start by a command whose operand binding names a register that holds no value (R22, R80 (1):
  "the command is refused: a model gives the write no meaning"; R29 has no transition for it; R32, R207, R233, U11 and
  the vectors V4 and V7 say the same). Safe. -/
  | operandHoldsNoValue (reg : Reg)
  /-- Raised by a host read of a register that holds no value, be it since reset or since a command start invalidated
  it (R22: "a host read of a register that holds no value is refused"; R82, U11, vector V2). Safe. -/
  | readHoldsNoValue (reg : Reg)
  /-- Raised by a host read of a reserved index, 10 to 15 (R51: "a read returns no value (refused in a model)").
  Safe. -/
  | readReservedIndex (index : RegIndex)
  /-- Raised by a script line that uses `<the value read>` when the script has read nothing (R79). Safe. -/
  | scriptNothingRead
  /-- Raised by `IFSET` when the script has read no `STATUS` value (R78). Safe. -/
  | scriptNoStatusRead
  /-- Raised by `IFSET` when it must continue at a label the script does not define (R78). Safe. -/
  | scriptNoSuchLabel (target : Nat)
  deriving DecidableEq, Repr

/-- `STATUS` after reset: 0x00000000, that is `PHASE = IDLE` and every flag 0 (R38). -/
def Status.reset : Status :=
  { phase := .idle, outv := false, abort := false, burnReq := false, illCmd := false }

/-- The machine right after reset (R38, R230). `A0` to `A3`, `Q0`, `Q1`, `BUDGET` and `BURN_AMT` hold no value, which is
the value the spec states for them; the host has no script. -/
def State.reset : State :=
  { a0 := none, a1 := none, a2 := none, a3 := none
    q0 := none, q1 := none
    cmd := 0x00
    status := Status.reset
    budget := none, burnAmt := none
    trace := []
    script := [], line := 0, reads := [] }

end Sys2Proof.Machine
end

