-- ==== Sys2Proof/Machine/Bytes.lean ====
section
/-! DEFINITION. The byte view of a word and the two byte windows (20_memory.md rules R52, R53). Byte order is
big-endian and cannot be switched. Moving the bytes is the host's (00_scope.md rule R4); their layout is fixed. -/

namespace Sys2Proof.Machine

/-- Byte `B[j]` of a word: `v[8*(31-j)+7 : 8*(31-j)]` (R52). -/
def byteOf (v : Word) (j : Nat) : Byte := v.extractLsb' (8 * (31 - j)) 8

/-- The 32 bytes of a word, `B[0]` the most significant (R52). -/
def wordBytes (v : Word) : List Byte := (List.range 32).map (byteOf v)

/-- The number big-endian bytes stand for. -/
def bytesNat (bytes : List Byte) : Nat := bytes.foldl (fun acc b => acc * 256 + b.toNat) 0

/-- The word 32 bytes stand for: `v = sum over j of B[j] * 2^(8*(31-j))` (R52). -/
def bytesWord (bytes : List Byte) : Word := BitVec.ofNat 256 (bytesNat bytes)

/-- The `i`-th word of a buffer of 32-byte words (R53). The spec gives no meaning to a buffer that does not hold all
32 bytes of the word: "padding or truncating a caller's byte string to 128 bytes is the host adapter's business and is
not specified here" (R63, N9). DESIGN CHOICE, log entry 17: the bytes that are there stand for their number, as if
zeros were missing on the left, and bytes beyond the last word asked for are not read. `PseudoLine.wellFormed` refuses
a `LDIN` of any length but 128. -/
def windowWord (bytes : List Byte) (i : Nat) : Word := bytesWord ((bytes.drop (32 * i)).take 32)

/-- The 128 bytes of the input window `IN`, over `A0` to `A3` (R53), when all four hold a value. -/
def inWindow (s : State) : Option (List Byte) :=
  match s.a0, s.a1, s.a2, s.a3 with
  | some x1, some y1, some x2, some y2 => some (wordBytes x1 ++ wordBytes y1 ++ wordBytes x2 ++ wordBytes y2)
  | _, _, _, _ => none

/-- The 64 bytes of the output window `OUT`, over `Q0` and `Q1` (R53, R180); `none` is "no output bytes". -/
def outWindow (s : State) : Option (List Byte) :=
  match s.q0, s.q1 with
  | some x3, some y3 => some (wordBytes x3 ++ wordBytes y3)
  | _, _ => none

end Sys2Proof.Machine
end

