-- ==== Sys2Proof/WellFormed.lean ====
section
/-! DEFINITION. Which terms of Syntax.lean the spec gives a meaning to. A command has no operand fields, no
immediates and no mode bits (30_encoding.md rules R70, R74), so every command is well formed; what can be ill formed
is a host access wider than its register (20_memory.md rule R54) and a script whose labels do not resolve (R78). -/

namespace Sys2Proof

/-- A command has no fields (R70), so there is nothing in one that could be ill formed. -/
abbrev Instr.wellFormed (_ : Instr) : Bool := true

/-- The width of the register at an index (R51), with no width at the reserved indices 10 to 15. -/
def regWidth (index : RegIndex) : Option Nat :=
  match index.val with
  | 0 | 1 | 2 | 3 | 4 | 5 => some 256
  | 6 => some 8
  | 7 => some 32
  | 8 | 9 => some Config.budgetWidth
  | _ => none

/-- A host write is to one whole register (R54): its data has the register's width. A write to a reserved index is
dropped whatever its data (R51). -/
def Transaction.wellFormed : Transaction → Bool
  | .write index data =>
    match regWidth index with
    | some w => decide (data < 2 ^ w)
    | none => true
  | .read _ => true

/-- The labels a script defines, in order. -/
def scriptLabels (script : List HostLine) : List Nat :=
  script.filterMap fun l => match l with
    | .label name => some name
    | _ => none

/-- One line is well formed in a script that defines `labels`. -/
def HostLine.wellFormed (labels : List Nat) : HostLine → Bool
  | .wr index (.lit n) => (Transaction.write index n).wellFormed
  | .ifset _ target => decide (target ∈ labels)
  | _ => true

/-- A script's labels are distinct, every line is well formed and every `IFSET` names a label of it (R78). -/
def scriptWellFormed (script : List HostLine) : Bool :=
  decide (scriptLabels script).Nodup && script.all (HostLine.wellFormed (scriptLabels script))

/-- `LDPT` loads four 256-bit words and `LDIN` takes exactly 128 bytes (R79, R63). -/
def PseudoLine.wellFormed : PseudoLine → Bool
  | .ldpt x1 y1 x2 y2 => [x1, y1, x2, y2].all fun v => decide (v < W)
  | .ldin bytes => bytes.length == 128
  | .run i => i.wellFormed
  | .movq _ _ => true
  | .stout => true

end Sys2Proof
end

