-- ==== Sys2Proof/Decode.lean ====
section
/-! DEFINITION. The command decoder and encoder, from 30_encoding.md rules R70 (format `C8`: `unit` in bits 7:4, `fn`
in bits 3:0, one byte long), R71 (the codes) and R75 (every other code is reserved). -/

namespace Sys2Proof

/-- Why bytes are not a command. -/
inductive DecodeError where
  /-- There is no byte to decode. -/
  | noByte
  /-- The code is one of the 242 reserved ones (R75). -/
  | reserved (code : Byte)
  deriving DecidableEq, Repr

/-- The answer of the decoder. -/
inductive DecodeResult where
  /-- A command, and the bytes after it. -/
  | ok (i : Instr) (rest : List Byte)
  /-- No command, and why. -/
  | rejected (reason : DecodeError)
  deriving DecidableEq, Repr

/-- The `unit` field, bits 7:4 (R70). -/
def codeUnit (code : Byte) : BitVec 4 := code.extractLsb' 4 4

/-- The `fn` field, bits 3:0 (R70). -/
def codeFn (code : Byte) : BitVec 4 := code.extractLsb' 0 4

/-- The command at a `unit` and an `fn` (R71); everything else is reserved (R75). -/
def decodeFields (unit fn : Nat) : Option Instr :=
  match unit with
  | 0 =>
    match fn with
    | 1 => some .mulw
    | 2 => some .addmod
    | 3 => some .submod
    | 4 => some .redc
    | 5 => some .tomont
    | 6 => some .frommont
    | 7 => some .montmul
    | 8 => some .montexp
    | _ => none
  | 1 =>
    match fn with
    | 0 => some .montinv
    | 1 => some .montdiv
    | _ => none
  | 2 =>
    match fn with
    | 0 => some .isinf
    | 1 => some .rangechk
    | 2 => some .oncurve
    | _ => none
  | 3 =>
    match fn with
    | 0 => some .ecadd
    | _ => none
  | _ => none

/-- The command of one code, or `none` for a reserved code. -/
def decodeCode (code : Byte) : Option Instr :=
  decodeFields (codeUnit code).toNat (codeFn code).toNat

/-- Decode a command from the front of a list of bytes: the command and the bytes after it, or the reason there is
none. Every command is exactly one byte (R70, R77). -/
def decode : List Byte → DecodeResult
  | [] => .rejected .noByte
  | code :: rest =>
    match decodeCode code with
    | some i => .ok i rest
    | none => .rejected (.reserved code)

/-- The `unit` of a command (R71): 0 Field Engine, 1 Modular Inverse Engine, 2 Curve Validator, 3 Group Law. -/
def instrUnit : Instr → BitVec 4
  | .mulw => 0
  | .addmod => 0
  | .submod => 0
  | .redc => 0
  | .tomont => 0
  | .frommont => 0
  | .montmul => 0
  | .montexp => 0
  | .montinv => 1
  | .montdiv => 1
  | .isinf => 2
  | .rangechk => 2
  | .oncurve => 2
  | .ecadd => 3

/-- The `fn` of a command within its unit (R71). -/
def instrFn : Instr → BitVec 4
  | .mulw => 1
  | .addmod => 2
  | .submod => 3
  | .redc => 4
  | .tomont => 5
  | .frommont => 6
  | .montmul => 7
  | .montexp => 8
  | .montinv => 0
  | .montdiv => 1
  | .isinf => 0
  | .rangechk => 1
  | .oncurve => 2
  | .ecadd => 0

/-- The code of a command: `unit` above `fn` (R70). -/
def instrCode (i : Instr) : Byte := instrUnit i ++ instrFn i

/-- The bytes of a command: its one code byte (R70). -/
def encode (i : Instr) : List Byte := [instrCode i]

/-- The bytes of a number of `nbits` bits, the byte with bit 0 first, and never fewer than the longest command has
(one byte, R70): bits above `nbits` are 0. -/
def tableBytes (nbits w : Nat) : List Byte :=
  (List.range (max (nbits / 8) 1)).map fun k => BitVec.ofNat 8 (w % 2 ^ nbits / 2 ^ (8 * k))

/-- The command the decoder reads from an instruction whose bits are `w`, numbered as spec/opcode_table.json numbers
them. -/
def decodeTableWord (nbits w : Nat) : Option Instr :=
  match decode (tableBytes nbits w) with
  | .ok i _ => some i
  | .rejected _ => none

end Sys2Proof
end

