-- ==== Sys2Proof/Machine/Flags.lean ====
section
/-! DEFINITION. Every value the core writes to `STATUS`, and the 32-bit word a host reads from it (10_state.md rules
R28 to R30, 30_encoding.md rules R75, R80, R81). -/

namespace Sys2Proof.Machine

/-- The code of a phase in `STATUS[1:0]` (R28). -/
def phaseCode : Phase → Nat
  | .idle => 0
  | .busy => 1
  | .done => 2

/-- One flag as a bit at a position of the status word. -/
def flagBit (b : Bool) (position : Nat) : Nat := if b then 2 ^ position else 0

/-- `STATUS` as the host reads it: the fields at their bits, bits 31:6 zero (R28). -/
def statusWord (st : Status) : BitVec 32 :=
  BitVec.ofNat 32
    (phaseCode st.phase + flagBit st.outv 2 + flagBit st.abort 3 + flagBit st.burnReq 4 + flagBit st.illCmd 5)

/-- Command start: `PHASE` becomes BUSY and all four flags are cleared (R30, R80). -/
def statusStarted : Status :=
  { phase := .busy, outv := false, abort := false, burnReq := false, illCmd := false }

/-- Completion with `Ok`: `OUTV <- 1`, `PHASE <- DONE` (R81). -/
def statusSucceeded (st : Status) : Status := { st with phase := .done, outv := true }

/-- Completion with `Fail`: `BURN_REQ <- 1`, `ABORT <- 1`, `PHASE <- DONE`, `OUTV` stays (R81, R203). -/
def statusAborted (st : Status) : Status := { st with phase := .done, burnReq := true, abort := true }

/-- A reserved code: `ILLCMD <- 1`, `PHASE <- DONE` (R75). -/
def statusIllegal (st : Status) : Status := { st with phase := .done, illCmd := true }

/-- The bits of `STATUS` a field occupies: its lowest bit and its width (R28). -/
def fieldBits : StatusField → Nat × Nat
  | .phase => (0, 2)
  | .outv => (2, 1)
  | .abort => (3, 1)
  | .burnReq => (4, 1)
  | .illCmd => (5, 1)

/-- The value of a field in a `STATUS` value that was read (R28). -/
def fieldOf (field : StatusField) (v : Nat) : Nat :=
  v / 2 ^ (fieldBits field).1 % 2 ^ (fieldBits field).2

end Sys2Proof.Machine
end

