-- ==== Sys2Proof/Machine/Operands.lean ====
section
/-! DEFINITION. Operand and result binding (30_encoding.md rules R72, R73) and the register index map
(20_memory.md rule R51). Every operand of a command is a fixed register, and all of them are sampled at once at
command start (10_state.md rule R25). -/

namespace Sys2Proof.Machine

/-- The registers a command's binding names, in the order of the table of R72. -/
def operandBinding : Instr → List Reg
  | .mulw => [.a0, .a1]
  | .addmod => [.a0, .a1]
  | .submod => [.a0, .a1]
  | .redc => [.a0, .a1]
  | .tomont => [.a0]
  | .frommont => [.a0]
  | .montmul => [.a0, .a1]
  | .montexp => [.a0, .a1]
  | .montinv => [.a0]
  | .montdiv => [.a0, .a1]
  | .isinf => [.a0, .a1]
  | .rangechk => [.a0]
  | .oncurve => [.a0, .a1]
  | .ecadd => [.a0, .a1, .a2, .a3, .budget]

/-- Sample a binding of one operand, `A0`. A register that holds no value refuses the command (R22, R80). -/
def sampleOne (f : Word → CommandOutcome) (s : State) : Except Refusal CommandOutcome :=
  match s.a0 with
  | none => .error (.operandHoldsNoValue .a0)
  | some a => .ok (f a)

/-- Sample a binding of two operands, `A0` and `A1`. -/
def sampleTwo (f : Word → Word → CommandOutcome) (s : State) : Except Refusal CommandOutcome :=
  match s.a0 with
  | none => .error (.operandHoldsNoValue .a0)
  | some a =>
    match s.a1 with
    | none => .error (.operandHoldsNoValue .a1)
    | some b => .ok (f a b)

/-- Sample ECADD's binding: the four coordinates and `BUDGET` (R32, R72). -/
def samplePoints (f : Word → Word → Word → Word → Budget → CommandOutcome) (s : State) :
    Except Refusal CommandOutcome :=
  match s.a0 with
  | none => .error (.operandHoldsNoValue .a0)
  | some x1 =>
    match s.a1 with
    | none => .error (.operandHoldsNoValue .a1)
    | some y1 =>
      match s.a2 with
      | none => .error (.operandHoldsNoValue .a2)
      | some x2 =>
        match s.a3 with
        | none => .error (.operandHoldsNoValue .a3)
        | some y2 =>
          match s.budget with
          | none => .error (.operandHoldsNoValue .budget)
          | some b => .ok (f x1 y1 x2 y2 b)

/-- The result binding of a command with one result word: it goes to `Q0`, and `Q1` is written with 0 (R73). -/
def okWord (q : Word) : CommandOutcome := .ok q 0

/-- A boolean result: the word 1 for true, 0 for false (R73). -/
def okBool (b : Bool) : CommandOutcome := .ok (if b then 1 else 0) 0

/-- The result binding of a function whose loop may never end: `none` is `Diverge` (R33). -/
def okOrDiverge : Option Word → CommandOutcome
  | some q => okWord q
  | none => .diverge

/-- The register at an index (R51); indices 10 to 15 are reserved. -/
def regAt (index : RegIndex) : Option Reg :=
  match index.val with
  | 0 => some .a0
  | 1 => some .a1
  | 2 => some .a2
  | 3 => some .a3
  | 4 => some .q0
  | 5 => some .q1
  | 6 => some .cmd
  | 7 => some .status
  | 8 => some .budget
  | 9 => some .burnAmt
  | _ => none

/-- The index of a register (R51). -/
def regIndex : Reg → RegIndex
  | .a0 => 0
  | .a1 => 1
  | .a2 => 2
  | .a3 => 3
  | .q0 => 4
  | .q1 => 5
  | .cmd => 6
  | .status => 7
  | .budget => 8
  | .burnAmt => 9

/-- The register index of operand register `Ai` (R51). -/
def operandIndex (i : Fin 4) : RegIndex := ⟨i.val, by omega⟩

/-- The register index of result register `Qj` (R51). -/
def resultIndex (j : Fin 2) : RegIndex := ⟨4 + j.val, by omega⟩

end Sys2Proof.Machine
end

