-- ==== Sys2Proof/Machine/Ops.lean ====
section
/-! DEFINITION. The operations every command and every host access share: command start (30_encoding.md rule R80),
command completion (R81), the failure path (60_exceptions.md rule R203), the rejection of a reserved code (R75), the
reset event (70_reset_and_hazards.md rule R230), and the reads and writes of the registers (20_memory.md rules R51,
R55). The core has no memory (R50, R57), so there is no operation over one. -/

namespace Sys2Proof.Machine

/-- The burn request's constant descriptor (R204): four words in, two words out. -/
def burnDescriptor : BurnDescriptor := { inWords := 4, outWords := 2 }

/-- Command start (R80): `CMD` takes the code, the flags are cleared, `Q0`, `Q1` and `BURN_AMT` are invalidated, and
`PHASE` becomes BUSY. -/
def startCommand (code : Byte) (s : State) : State :=
  { s with cmd := code, status := statusStarted, q0 := none, q1 := none, burnAmt := none }

/-- Completion with `Ok(q0, q1)` (R81). -/
def returnResult (code : Byte) (q0 q1 : Word) (s : State) : State :=
  { s with
    q0 := some q0, q1 := some q1
    status := statusSucceeded s.status
    trace := s.trace ++ [.returned code q0 q1] }

/-- TAKING THE CORE'S ONE EXCEPTION, the failure path (R203): the burn amount is the sampled budget, the burn request
is raised with its constant descriptor, then the abort is signalled. No result is written, nothing is saved and
control goes nowhere. There is no return from it: the next command start clears what it left (R209). -/
def failurePath (code : Byte) (kind : ErrorKind) (sampled : Budget) (s : State) : State :=
  { s with
    burnAmt := some sampled
    status := statusAborted s.status
    trace := s.trace ++ [.burn burnDescriptor sampled, .aborted code kind] }

/-- The end of an illegal command (R75): `ILLCMD` and `PHASE` are set, and nothing is computed. -/
def rejectCode (code : Byte) (s : State) : State :=
  { s with status := statusIllegal s.status, trace := s.trace ++ [.rejected code] }

/-- Command completion (R81), from a state that has started the command. A `Diverge` outcome changes nothing: `PHASE`
stays BUSY. -/
def completeCommand (code : Byte) (out : CommandOutcome) (s : State) : State :=
  match out with
  | .ok q0 q1 => returnResult code q0 q1 s
  | .fail kind sampled => failurePath code kind sampled s
  | .illegal => rejectCode code s
  | .diverge => s

/-- Issue a command: what a write of its code to `CMD` does (R80, R81), start and completion as one step (R29). While
BUSY the write is dropped; a binding that names a register holding no value refuses the command; else the command
starts, and completes with the outcome of its function on the sampled operands. -/
def issueCommand (i : Instr) (sampled : Except Refusal CommandOutcome) (s : State) :
    Host.Outcome State Fault Refusal :=
  if s.status.phase = .busy then .next s
  else
    match sampled with
    | .error r => .refused r
    | .ok out => .next (completeCommand (instrCode i) out (startCommand (instrCode i) s))

/-- What a write of a reserved code to `CMD` does (R75). While BUSY it is dropped (R31, R55). -/
def issueReserved (code : Byte) (s : State) : State :=
  if s.status.phase = .busy then s
  else completeCommand code .illegal (startCommand code s)

/-- The reset event (R230): the core's registers, its status and its trace take their reset values, in any phase. The
host's script, its position and what it has read are the host's and stay. -/
def resetEvent (s : State) : State :=
  { State.reset with script := s.script, line := s.line, reads := s.reads }

/-- The value of a register as the number a host reads (R51, R55), or the refusal of R22. -/
def readReg (r : Reg) (s : State) : Except Refusal Nat :=
  match r with
  | .a0 => valueOr r (s.a0.map BitVec.toNat)
  | .a1 => valueOr r (s.a1.map BitVec.toNat)
  | .a2 => valueOr r (s.a2.map BitVec.toNat)
  | .a3 => valueOr r (s.a3.map BitVec.toNat)
  | .q0 => valueOr r (s.q0.map BitVec.toNat)
  | .q1 => valueOr r (s.q1.map BitVec.toNat)
  | .cmd => .ok s.cmd.toNat
  | .status => .ok (statusWord s.status).toNat
  | .budget => valueOr r (s.budget.map BitVec.toNat)
  | .burnAmt => valueOr r (s.burnAmt.map BitVec.toNat)
where
  /-- The value, or the refusal of a read of a register that holds none (R22). -/
  valueOr (r : Reg) : Option Nat → Except Refusal Nat
    | some v => .ok v
    | none => .error (.readHoldsNoValue r)

/-- The host's read at an index (R51): a reserved index returns no value. -/
def readIndex (index : RegIndex) (s : State) : Except Refusal Nat :=
  match regAt index with
  | some r => readReg r s
  | none => .error (.readReservedIndex index)

/-- The host's write to a register other than `CMD` while no command runs (R51): the operand registers and `BUDGET`
take the data; a read-only register and a reserved index drop it (R28, R51). Data above the register's width has no
place on its transfer (R54) and is cut to the width (log entry 7). -/
def writeData (r : Option Reg) (data : Nat) (s : State) : State :=
  match r with
  | some .a0 => { s with a0 := some (BitVec.ofNat 256 data) }
  | some .a1 => { s with a1 := some (BitVec.ofNat 256 data) }
  | some .a2 => { s with a2 := some (BitVec.ofNat 256 data) }
  | some .a3 => { s with a3 := some (BitVec.ofNat 256 data) }
  | some .budget => { s with budget := some (BitVec.ofNat Config.budgetWidth data) }
  | some .q0 => s
  | some .q1 => s
  | some .cmd => s
  | some .status => s
  | some .burnAmt => s
  | none => s

/-- Record a value the host has read (R82). -/
def recordRead (index : RegIndex) (v : Nat) (s : State) : State :=
  { s with reads := s.reads ++ [{ index := index, value := v }] }

end Sys2Proof.Machine
end

