-- ==== Sys2Proof/Machine/ConstStore.lean ====
section
/-! DEFINITION. The constant store (10_state.md rule R36): the modulus, the Montgomery constants and the curve
constants of 00_scope.md rules R7 to R10, hard-wired, read-only and the same after every reset. -/

namespace Sys2Proof.Machine

/-- The modulus as a number, by the decimal literal of the source (R7). -/
def modN : Nat :=
  21888242871839275222246405745257275088696311157297823662689037894645226208583

/-- The modulus `N` as a word (R7). -/
def constN : Word :=
  0x30644e72e131a029b85045b68181585d97816a916871ca8d3c208c16d87cfd47#256

/-- `R = 2^256 mod N`, also `MONT_ONE`, the Montgomery encoding of 1 (R9). -/
def montOne : Word :=
  0x0e0a77c19a07df2f666ea36f7879462c0a78eb28f5c70b3dd35d438dc58f0d9d#256

/-- `R2 = R^2 mod N` (R9). -/
def constR2 : Word :=
  0x06d89f71cab8351f47ab1eff0a417ff6b5e71911d44501fbf32cfc5b538afa89#256

/-- `R3 = R^3 mod N` (R9). The source lists it and no operation reads it (91_not_in_source.md N7). -/
def constR3 : Word :=
  0x20fd6e902d592544ef7f0b0c0ada0afb62f210e6a7283db6b1cd6dafda1530df#256

/-- `NPRIME = -N^(-1) mod 2^256`, used by REDC (R9). -/
def constNPrime : Word :=
  0xf57a22b791888c6bd8afcbd01833da809ede7d651eca6ac987d20782e4866389#256

/-- `RINV = R^(-1) mod N` as a number (R9). No operation reads it: it serves statements only. -/
def modRInv : Nat :=
  0x2e67157159e5c639cf63e9cfb74492d9eb2022850278edf8ed84884a014afa37

/-- The curve constant `a = 0` (R8). -/
def curveA : Nat := 0

/-- The curve constant `b = 3` (R8). -/
def curveB : Nat := 3

/-- `SPARE = (N >> 255 == 0)` (R10): whether the modulus leaves its top bit unused. -/
def spareBit : Bool := constN >>> 255 == 0

end Sys2Proof.Machine
end

