-- ==== Sys2Proof/Machine/Prim.lean ====
section
/-! DEFINITION. The fixed-width primitives of 00_scope.md section 6, the reduction modulo `N`, and the two
representations of a field element (00_scope.md rule R13): `Std` and `Mont` are distinct types, so that a mix is
ill typed wherever the model itself computes (70_reset_and_hazards.md rule R240). The registers hold raw words and
cannot tell the two apart: reading an operand register as one or the other is `Std.mk` and `Mont.mk`. -/

namespace Sys2Proof.Machine

/-- `add256(a, b) = (a + b) mod W`. -/
def add256 (a b : Word) : Word := a + b

/-- `carry256(a, b) = (a + b) div W`, which is 0 or 1. -/
def carry256 (a b : Word) : Word := BitVec.ofNat 256 ((a.toNat + b.toNat) / W)

/-- `sub256(a, b) = (a - b) mod W`. -/
def sub256 (a b : Word) : Word := a - b

/-- `mullo256(a, b) = (a * b) mod W`. -/
def mullo256 (a b : Word) : Word := a * b

/-- `mulhi256(a, b) = (a * b) div W`. -/
def mulhi256 (a b : Word) : Word := BitVec.ofNat 256 (a.toNat * b.toNat / W)

/-- `shr1(a) = a div 2`. -/
def shr1 (a : Word) : Word := a >>> 1

/-- Bit 0 of a word, `v[0]`. -/
def bit0 (a : Word) : Bool := a.getLsbD 0

/-- The word of `x mod N`, the exact mathematical remainder (R91). -/
def wordModN (x : Nat) : Word := BitVec.ofNat 256 (x % modN)

/-- A word read as a standard-form value (R13). -/
structure Std where
  word : Word
  deriving DecidableEq, Repr

/-- A word read as a Montgomery-form value (R13). -/
structure Mont where
  word : Word
  deriving DecidableEq, Repr

end Sys2Proof.Machine
end

