-- ==== Sys2Proof/Machine/Field.lean ====
section
/-! DEFINITION. The Field Engine (40_field_engine.md): MULW, ADDMOD, SUBMOD, REDC, TOMONT, FROMMONT, MONTMUL, MONTEXP.
Each pure function is the pseudocode of its rule; each `exec` is the command that applies it to the operand registers
of its binding (30_encoding.md rule R72). -/

namespace Sys2Proof.Machine

/-- `mulw(a, b)`: the exact 512-bit product's low and high halves (R92). -/
def mulw (a b : Word) : Word × Word :=
  (BitVec.ofNat 256 (a.toNat * b.toNat % W), BitVec.ofNat 256 (a.toNat * b.toNat / W))

/-- `addmod(a, b) = (a + b) mod N`, the sum formed without loss (R94). -/
def addmod (a b : Word) : Word := wordModN (a.toNat + b.toNat)

/-- `submod(a, b) = (a mod N + N - b mod N) mod N` (R95). -/
def submod (a b : Word) : Word := wordModN (a.toNat % modN + modN - b.toNat % modN)

/-- REDC's high accumulator before the conditional subtraction (R97, R35): every line is 256-bit arithmetic. -/
def redcHigh (low high : Word) : Word :=
  let q := mullo256 low constNPrime
  let qnLo := mullo256 q constN
  let qnHi := mulhi256 q constN
  let carry := carry256 low qnLo
  add256 (add256 high qnHi) carry

/-- `redc(low, high)` (R97), evaluated as written on every operand pair, inside its precondition or not (R100). -/
def redc (low high : Word) : Word :=
  let aHigh := redcHigh low high
  if constN ≤ aHigh then sub256 aHigh constN else aHigh

/-- REDC of a double-width product. -/
def redcPair (p : Word × Word) : Word := redc p.1 p.2

/-- `tomont(a)` (R101): the operand is reduced first. -/
def tomont (a : Std) : Mont := ⟨redcPair (mulw (wordModN a.word.toNat) constR2)⟩

/-- `frommont(m)` (R103). -/
def frommont (m : Mont) : Std := ⟨redc m.word 0⟩

/-- `montmul(a, b)` (R105). -/
def montmul (a b : Mont) : Mont := ⟨redcPair (mulw a.word b.word)⟩

/-- `addmod` on two Montgomery-form values (R94: "in the same representation"). -/
def addMont (a b : Mont) : Mont := ⟨addmod a.word b.word⟩

/-- `submod` on two Montgomery-form values (R95). -/
def subMont (a b : Mont) : Mont := ⟨submod a.word b.word⟩

/-- The working registers of MONTEXP (R35). -/
structure ExpRegs where
  pow : Mont
  aux : Word
  base : Mont
  deriving DecidableEq, Repr

/-- One pass of MONTEXP's loop (R108): the multiply uses `base` from before this pass squares it. -/
def expPass (r : ExpRegs) : ExpRegs :=
  { pow := if bit0 r.aux then montmul r.pow r.base else r.pow
    aux := shr1 r.aux
    base := montmul r.base r.base }

/-- MONTEXP's loop, `while aux > 0` (R108), with the fuel of R12. -/
def expLoop : Nat → ExpRegs → ExpRegs
  | 0, r => r
  | fuel + 1, r => if r.aux = 0 then r else expLoop fuel (expPass r)

/-- `montexp(base, exponent)` (R108). -/
def montexp (base : Mont) (exponent : Word) : Mont :=
  (expLoop Config.expMaxIter { pow := ⟨montOne⟩, aux := exponent, base := base }).pow

/-- MULW, code 0x01 (R92): `Q0` the low half, `Q1` the high half. -/
def execMulw (s : State) : Host.Outcome State Fault Refusal :=
  issueCommand .mulw (sampleTwo (fun a b => .ok (mulw a b).1 (mulw a b).2) s) s

/-- ADDMOD, code 0x02 (R94). -/
def execAddmod (s : State) : Host.Outcome State Fault Refusal :=
  issueCommand .addmod (sampleTwo (fun a b => okWord (addmod a b)) s) s

/-- SUBMOD, code 0x03 (R95). -/
def execSubmod (s : State) : Host.Outcome State Fault Refusal :=
  issueCommand .submod (sampleTwo (fun a b => okWord (submod a b)) s) s

/-- REDC, code 0x04 (R97): `A0` is the low word, `A1` the high one. -/
def execRedc (s : State) : Host.Outcome State Fault Refusal :=
  issueCommand .redc (sampleTwo (fun low high => okWord (redc low high)) s) s

/-- TOMONT, code 0x05 (R101). -/
def execTomont (s : State) : Host.Outcome State Fault Refusal :=
  issueCommand .tomont (sampleOne (fun a => okWord (tomont ⟨a⟩).word) s) s

/-- FROMMONT, code 0x06 (R103). -/
def execFrommont (s : State) : Host.Outcome State Fault Refusal :=
  issueCommand .frommont (sampleOne (fun m => okWord (frommont ⟨m⟩).word) s) s

/-- MONTMUL, code 0x07 (R105). -/
def execMontmul (s : State) : Host.Outcome State Fault Refusal :=
  issueCommand .montmul (sampleTwo (fun a b => okWord (montmul ⟨a⟩ ⟨b⟩).word) s) s

/-- MONTEXP, code 0x08 (R108): `A0` is the base, `A1` the plain exponent. -/
def execMontexp (s : State) : Host.Outcome State Fault Refusal :=
  issueCommand .montexp (sampleTwo (fun base e => okWord (montexp ⟨base⟩ e).word) s) s

end Sys2Proof.Machine
end

