-- ==== Sys2Proof/Machine/Curve.lean ====
section
/-! DEFINITION. The Curve Validator (42_curve_validator.md): ISINF, RANGECHK, ONCURVE and the composite check the
group law uses. -/

namespace Sys2Proof.Machine

/-- `isinf(x, y)`: both raw words are zero, with no reduction (R151). -/
def isinf (x y : Word) : Bool := x == 0 && y == 0

/-- `rangechk(v) = v < N`, unsigned and strict (R152). -/
def rangechk (v : Word) : Bool := decide (v < constN)

/-- `oncurve(x, y)`: `(y * y) mod N = (x * x * x + 3) mod N` on exact integers (R153, R154), the equation of R8. -/
def oncurve (x y : Std) : Bool :=
  y.word.toNat * y.word.toNat % modN
    == (x.word.toNat * x.word.toNat * x.word.toNat + curveA * x.word.toNat + curveB) % modN

/-- `valid_point(x, y)` (R156). -/
def validPoint (x y : Word) : Bool := rangechk x && rangechk y && oncurve ⟨x⟩ ⟨y⟩

/-- ISINF, code 0x20 (R151). -/
def execIsinf (s : State) : Host.Outcome State Fault Refusal :=
  issueCommand .isinf (sampleTwo (fun x y => okBool (isinf x y)) s) s

/-- RANGECHK, code 0x21 (R152). -/
def execRangechk (s : State) : Host.Outcome State Fault Refusal :=
  issueCommand .rangechk (sampleOne (fun v => okBool (rangechk v)) s) s

/-- ONCURVE, code 0x22 (R153). -/
def execOncurve (s : State) : Host.Outcome State Fault Refusal :=
  issueCommand .oncurve (sampleTwo (fun x y => okBool (oncurve ⟨x⟩ ⟨y⟩)) s) s

end Sys2Proof.Machine
end

