-- ==== Sys2Proof/Machine/Inverse.lean ====
section
/-! DEFINITION. The Modular Inverse Engine (41_inverse_engine.md): MONTINV, the binary extended Euclidean algorithm,
and MONTDIV. A loop that never ends (R137) is `none`: the fuel of R139 is enough for every operand whose loop ends. -/

namespace Sys2Proof.Machine

/-- The working registers of the inverse engine (10_state.md rule R34): loaded at the start of every inversion and
dead when it ends. -/
structure InvRegs where
  u : Word
  v : Word
  b : Word
  c : Word
  deriving DecidableEq, Repr

/-- `halve_acc(x)` (R132), with the carry branch the source states and `SPARE` makes dead (R133). -/
def halveAcc (x : Word) : Word :=
  if bit0 x then
    let carry := carry256 x constN
    let r := shr1 (add256 x constN)
    if !spareBit && carry == 1 then r ||| (1 <<< 255) else r
  else shr1 x

/-- Step 1 (R131): "While `u` is even, halve `u`", and `b` with it. `none` when the fuel ends and `u` is still even. -/
def halveU : Nat → InvRegs → Option InvRegs
  | 0, r => if bit0 r.u then some r else none
  | fuel + 1, r => if bit0 r.u then some r else halveU fuel { r with u := shr1 r.u, b := halveAcc r.b }

/-- Step 2 (R131): the symmetric step for `v` and `c`. -/
def halveV : Nat → InvRegs → Option InvRegs
  | 0, r => if bit0 r.v then some r else none
  | fuel + 1, r => if bit0 r.v then some r else halveV fuel { r with v := shr1 r.v, c := halveAcc r.c }

/-- The accumulator difference of step 3 (R131): `N` is added first if the minuend is the smaller. -/
def accSub (x y : Word) : Word := sub256 (if x < y then add256 x constN else x) y

/-- Step 3 (R131, R134): subtract the smaller of `u` and `v` from the larger, and the accumulators alike. -/
def invSubtract (r : InvRegs) : InvRegs :=
  if r.u < r.v then { r with v := sub256 r.v r.u, c := accSub r.c r.b }
  else { r with u := sub256 r.u r.v, b := accSub r.b r.c }

/-- The loop's end, `u = 1` or `v = 1`, tested before each pass (R131). -/
def invDone (r : InvRegs) : Bool := r.u == 1 || r.v == 1

/-- One outer iteration: the three steps in order (R131). -/
def invPass (r : InvRegs) : Option InvRegs :=
  match halveU Config.invInnerFuel r with
  | none => none
  | some r1 =>
    match halveV Config.invInnerFuel r1 with
    | none => none
    | some r2 => some (invSubtract r2)

/-- The outer loop (R131). -/
def invLoop : Nat → InvRegs → Option InvRegs
  | 0, r => if invDone r then some r else none
  | fuel + 1, r =>
    if invDone r then some r
    else
      match invPass r with
      | none => none
      | some r' => invLoop fuel r'

/-- The result: "select `b` if `u == 1`, else `c`" (R131). -/
def invSelect (r : InvRegs) : Mont := if r.u = 1 then ⟨r.b⟩ else ⟨r.c⟩

/-- The registers at the start of an inversion (R34, R131). -/
def invLoad (base : Mont) : InvRegs := { u := base.word, v := constN, b := constR2, c := 0 }

/-- `montinv(base)` (R131); `none` is `Diverge` (R137). -/
def montinv (base : Mont) : Option Mont :=
  match invLoop Config.invOuterFuel (invLoad base) with
  | none => none
  | some r => some (invSelect r)

/-- `montdiv(x, y) = montmul(x, montinv(y))` (R141). -/
def montdiv (x y : Mont) : Option Mont :=
  match montinv y with
  | none => none
  | some i => some (montmul x i)

/-- MONTINV, code 0x10 (R131). -/
def execMontinv (s : State) : Host.Outcome State Fault Refusal :=
  issueCommand .montinv (sampleOne (fun a => okOrDiverge ((montinv ⟨a⟩).map Mont.word)) s) s

/-- MONTDIV, code 0x11 (R141): `A0` is the dividend, `A1` the divisor. -/
def execMontdiv (s : State) : Host.Outcome State Fault Refusal :=
  issueCommand .montdiv (sampleTwo (fun x y => okOrDiverge ((montdiv ⟨x⟩ ⟨y⟩).map Mont.word)) s) s

end Sys2Proof.Machine
end

