-- ==== Sys2Proof/Machine/Group.lean ====
section
/-! DEFINITION. The Group Law dispatcher (43_group_law.md): the seven-step decision tree of ECADD, "evaluated in this
exact order" (R170), with the two datapaths of steps 6 and 7. -/

namespace Sys2Proof.Machine

/-- The kind of the first false check when one point is validated (R175, R206): the range of `x`, the range of `y`,
then the curve; `none` when the point is valid (R156). -/
def validateOne (x y : Word) : Option ErrorKind :=
  if !rangechk x then some .coordinateOutOfRange
  else if !rangechk y then some .coordinateOutOfRange
  else if !oncurve ⟨x⟩ ⟨y⟩ then some .pointNotOnCurve
  else none

/-- The kind of the first false check when both points are validated (R174, R175, R206): the four ranges in the order
`x1`, `y1`, `x2`, `y2`, then the curve check of `P1`, then that of `P2`. -/
def validateBoth (x1 y1 x2 y2 : Word) : Option ErrorKind :=
  if !rangechk x1 then some .coordinateOutOfRange
  else if !rangechk y1 then some .coordinateOutOfRange
  else if !rangechk x2 then some .coordinateOutOfRange
  else if !rangechk y2 then some .coordinateOutOfRange
  else if !oncurve ⟨x1⟩ ⟨y1⟩ then some .pointNotOnCurve
  else if !oncurve ⟨x2⟩ ⟨y2⟩ then some .pointNotOnCurve
  else none

/-- The negation `(N - y) mod N`, which is `submod(0, y)` (R176). -/
def negY (y : Word) : Word := submod 0 y

/-- The condition of step 4, opposite points (R176). -/
def oppositePoints (x1 y1 x2 y2 : Word) : Bool := x1 == x2 && y2 == negY y1

/-- The condition of step 5, same `x` and unrelated `y` (R177). -/
def unrelatedPoints (x1 y1 x2 y2 : Word) : Bool := x1 == x2 && y1 != y2 && y1 != negY y2

/-- The condition of step 6, equal points (R178). -/
def equalPoints (x1 y1 x2 y2 : Word) : Bool := x1 == x2 && y1 == y2

/-- From a slope and the Montgomery-form coordinates, the end both datapaths share: `x3 = slope^2 - (sum of the two
x)`, `y3 = slope*(x1 - x3) - y1`, converted back (R178, R179). -/
def chord (lam xsum x y : Mont) : Std × Std :=
  let x3m := subMont (montmul lam lam) xsum
  let y3m := subMont (montmul lam (subMont x x3m)) y
  (frommont x3m, frommont y3m)

/-- `double(x1, y1)`, step 6 (R178); `none` if the division never ends, which R186 excludes inside ECADD. -/
def doublePoint (x1 y1 : Std) : Option (Std × Std) :=
  let x := tomont x1
  let y := tomont y1
  let xx := montmul x x
  let num := addMont xx (addMont xx xx)
  let den := addMont y y
  match montdiv num den with
  | none => none
  | some lam => some (chord lam (addMont x x) x y)

/-- `add(x1, y1, x2, y2)`, step 7 (R179). -/
def addPoints (x1 y1 x2 y2 : Std) : Option (Std × Std) :=
  let ax := tomont x1
  let ay := tomont y1
  let bx := tomont x2
  let yb := tomont y2
  match montdiv (subMont yb ay) (subMont bx ax) with
  | none => none
  | some lam => some (chord lam (addMont ax bx) ax ay)

/-- The outcome of a datapath: the two words in standard form (R180). -/
def okPoint : Option (Std × Std) → CommandOutcome
  | some p => .ok p.1.word p.2.word
  | none => .diverge

/-- Step 2 (R173): validate the one point that is not infinity and return it unchanged. -/
def ecaddOnePoint (x y : Word) (sampled : Budget) : CommandOutcome :=
  match validateOne x y with
  | some kind => .fail kind sampled
  | none => .ok x y

/-- Steps 4 to 7 (R176 to R179), for two points step 3 has passed. -/
def ecaddBothValid (x1 y1 x2 y2 : Word) (sampled : Budget) : CommandOutcome :=
  if oppositePoints x1 y1 x2 y2 then .ok 0 0
  else if unrelatedPoints x1 y1 x2 y2 then .fail .invalidSameXDifferentY sampled
  else if equalPoints x1 y1 x2 y2 then okPoint (doublePoint ⟨x1⟩ ⟨y1⟩)
  else okPoint (addPoints ⟨x1⟩ ⟨y1⟩ ⟨x2⟩ ⟨y2⟩)

/-- `ecadd(x1, y1, x2, y2)` (R171), with the budget sampled for the failure path only. -/
def ecadd (x1 y1 x2 y2 : Word) (sampled : Budget) : CommandOutcome :=
  if isinf x1 y1 && isinf x2 y2 then .ok 0 0
  else if isinf x1 y1 then ecaddOnePoint x2 y2 sampled
  else if isinf x2 y2 then ecaddOnePoint x1 y1 sampled
  else
    match validateBoth x1 y1 x2 y2 with
    | some kind => .fail kind sampled
    | none => ecaddBothValid x1 y1 x2 y2 sampled

/-- ECADD, code 0x30 (R171). -/
def execEcadd (s : State) : Host.Outcome State Fault Refusal :=
  issueCommand .ecadd (samplePoints ecadd s) s

end Sys2Proof.Machine
end

