-- ==== Sys2Proof/Machine/Dispatch.lean ====
section
/-! DEFINITION. The meaning of every command of 30_encoding.md rule R71: one arm per constructor of `Instr`. -/

namespace Sys2Proof.Machine

/-- What issuing a command does: the effect of the host's write of its code to `CMD` (R71, R80, R81). -/
def exec (i : Instr) (s : State) : Host.Outcome State Fault Refusal :=
  match i with
  | .mulw => Sys2Proof.Machine.execMulw s
  | .addmod => Sys2Proof.Machine.execAddmod s
  | .submod => Sys2Proof.Machine.execSubmod s
  | .redc => Sys2Proof.Machine.execRedc s
  | .tomont => Sys2Proof.Machine.execTomont s
  | .frommont => Sys2Proof.Machine.execFrommont s
  | .montmul => Sys2Proof.Machine.execMontmul s
  | .montexp => Sys2Proof.Machine.execMontexp s
  | .montinv => Sys2Proof.Machine.execMontinv s
  | .montdiv => Sys2Proof.Machine.execMontdiv s
  | .isinf => Sys2Proof.Machine.execIsinf s
  | .rangechk => Sys2Proof.Machine.execRangechk s
  | .oncurve => Sys2Proof.Machine.execOncurve s
  | .ecadd => Sys2Proof.Machine.execEcadd s

end Sys2Proof.Machine
end

