-- ==== Sys2Proof/Machine/Port.lean ====
section
/-! DEFINITION. The host port: what one transaction of the host's does (20_memory.md rules R51, R55, R58). A write to
`CMD` decodes its byte (30_encoding.md rule R70) and issues the command, or rejects a reserved code (R75); no other
access has a side effect. -/

namespace Sys2Proof.Machine

/-- The command-issue event (R31): a host write of a byte to `CMD`. -/
def writeCmd (code : Byte) (s : State) : Host.Outcome State Fault Refusal :=
  match decode [code] with
  | .ok i _ => exec i s
  | .rejected _ => .next (issueReserved code s)

/-- A host write (R51). While BUSY every write is dropped (R55); a write to `CMD` issues a command. -/
def hostWrite (index : RegIndex) (data : Nat) (s : State) : Host.Outcome State Fault Refusal :=
  if s.status.phase = .busy then .next s
  else if regAt index = some .cmd then writeCmd (BitVec.ofNat 8 data) s
  else .next (writeData (regAt index) data s)

/-- A host read (R51, R55): the value joins what the run has read; no read has a side effect on the core. -/
def hostRead (index : RegIndex) (s : State) : Host.Outcome State Fault Refusal :=
  match readIndex index s with
  | .error r => .refused r
  | .ok v => .next (recordRead index v s)

/-- One transaction at the port. -/
def runTransaction (t : Transaction) (s : State) : Host.Outcome State Fault Refusal :=
  match t with
  | .write index data => hostWrite index data s
  | .read index => hostRead index s

/-- `MemWrite(IN + 32*i, 32, bytes)`: the host write of register index `i` with the word the bytes stand for (R53). The spec gives this access 32 bytes; what a list of another length does is the
model's choice (log entry 17). -/
def memWrite (i : Fin 4) (bytes : List Byte) (s : State) : Host.Outcome State Fault Refusal :=
  hostWrite (operandIndex i) (bytesWord bytes).toNat s

/-- `MemRead(OUT + 32*j, 32)`: the bytes of the host read of register index `4 + j` (R53). -/
def memRead (j : Fin 2) (s : State) : Except Refusal (List Byte) :=
  match readIndex (resultIndex j) s with
  | .error r => .error r
  | .ok v => .ok (wordBytes (BitVec.ofNat 256 v))

end Sys2Proof.Machine
end

