-- ==== Sys2Proof/Machine/Script.lean ====
section
/-! DEFINITION. The host script (30_encoding.md rules R78, R79): the core has no program counter, no instruction
memory and no fetch (10_state.md rule R27), and "the sequence of commands is the host's program and lives in the
host". A step runs the script's next line: at most one transaction at the port. -/

namespace Sys2Proof.Machine

/-- The line the host runs next; `none` when the script has ended. -/
def fetchLine (s : State) : Option HostLine := s.script[s.line]?

/-- Move on to the next line. -/
def nextLine (s : State) : State := { s with line := s.line + 1 }

/-- The value the host's last read returned (`<the value read>`, R79). -/
def lastRead (s : State) : Option Nat := s.reads.getLast?.map ReadEntry.value

/-- The last value the host read from `STATUS` (R78). -/
def lastStatusRead (s : State) : Option Nat :=
  (s.reads.filter fun e => e.index == regIndex .status).getLast?.map ReadEntry.value

/-- The number a script value stands for. -/
def scriptValue (v : Value) (s : State) : Option Nat :=
  match v with
  | .lit n => some n
  | .lastRead => lastRead s

/-- The position of a label in a script (R78). -/
def labelLine (target : Nat) (script : List HostLine) : Option Nat :=
  script.findIdx? fun l => l == .label target

/-- `WR reg, value` (R78). -/
def runWrite (index : RegIndex) (v : Value) (s : State) : Host.Outcome State Fault Refusal :=
  match scriptValue v s with
  | none => .refused .scriptNothingRead
  | some n => runTransaction (.write index n) (nextLine s)

/-- `WAIT`: one read of `STATUS`; the host stays on the line until `PHASE = DONE` (R78). -/
def runWait (s : State) : Host.Outcome State Fault Refusal :=
  if s.status.phase = .done then runTransaction (.read (regIndex .status)) (nextLine s)
  else runTransaction (.read (regIndex .status)) s

/-- `IFSET field, label` (R78): host control flow, no transaction. -/
def runIfset (field : StatusField) (target : Nat) (s : State) : Host.Outcome State Fault Refusal :=
  match lastStatusRead s with
  | none => .refused .scriptNoStatusRead
  | some v =>
    if fieldOf field v = 1 then
      match labelLine target s.script with
      | none => .refused (.scriptNoSuchLabel target)
      | some k => .next { s with line := k }
    else .next (nextLine s)

/-- Run one script line (R78), or let the reset event happen (R230). -/
def runLine (l : HostLine) (s : State) : Host.Outcome State Fault Refusal :=
  match l with
  | .wr index v => runWrite index v s
  | .rd index => runTransaction (.read index) (nextLine s)
  | .command i => runTransaction (.write (regIndex .cmd) (instrCode i).toNat) (nextLine s)
  | .wait => runWait s
  | .label _ => .next (nextLine s)
  | .ifset field target => runIfset field target s
  | .halt => .next s
  | .reset => .next (resetEvent (nextLine s))

/-- `LDPT x1, y1, x2, y2`: four writes (R79). -/
def loadPoints (x1 y1 x2 y2 : Nat) : List HostLine :=
  [.wr (regIndex .a0) (.lit x1), .wr (regIndex .a1) (.lit y1), .wr (regIndex .a2) (.lit x2),
    .wr (regIndex .a3) (.lit y2)]

/-- The expansion of a pseudo-command (R79). -/
def expandPseudo (p : PseudoLine) : List HostLine :=
  match p with
  | .run i => [.command i, .wait]
  | .movq dst src => [.rd (resultIndex src), .wr (operandIndex dst) .lastRead]
  | .ldpt x1 y1 x2 y2 => loadPoints x1 y1 x2 y2
  | .ldin bytes =>
    loadPoints (windowWord bytes 0).toNat (windowWord bytes 1).toNat (windowWord bytes 2).toNat
      (windowWord bytes 3).toNat
  | .stout => [.rd (regIndex .q0), .rd (regIndex .q1)]

/-- Give one operand register a value if it holds none: the host's duty of 70_reset_and_hazards.md rule R233, "before a
command the host must write every operand register the command's binding names". The values are the model's own (log
entry 2): `A0 = 1`, `A1 = 2`, `A2 = 0`, `A3 = 0`, `BUDGET = 0`. Used by `State.withFetchWord` only. -/
def provideOperand (s : State) (r : Reg) : State :=
  match r with
  | .a0 => { s with a0 := some (s.a0.getD 1) }
  | .a1 => { s with a1 := some (s.a1.getD 2) }
  | .a2 => { s with a2 := some (s.a2.getD 0) }
  | .a3 => { s with a3 := some (s.a3.getD 0) }
  | .budget => { s with budget := some (s.budget.getD 0) }
  | .q0 => s
  | .q1 => s
  | .cmd => s
  | .status => s
  | .burnAmt => s

/-- Give every operand register of a command's binding that holds no value a value. -/
def provideOperands (i : Instr) (s : State) : State := (operandBinding i).foldl provideOperand s

/-- Put a line into the script at the place the next step fetches from. -/
def insertLine (l : HostLine) (s : State) : State :=
  { s with
    script := s.script.take s.line ++ l :: s.script.drop s.line
    line := min s.line s.script.length }

end Sys2Proof.Machine
end

