-- ==== Sys2Proof/Machine/Step.lean ====
section
/-! DEFINITION. One step of the machine, and the placing of one command where the next step takes it from. -/

namespace Sys2Proof.Machine

/-- One step: the host runs its script's next line (10_state.md rule R27, 30_encoding.md rule R78). When the script has
ended nothing happens: "the core does nothing until the host writes `CMD`" (70_reset_and_hazards.md rule R231). -/
def step (s : State) : Host.Outcome State Fault Refusal :=
  match fetchLine s with
  | none => .next s
  | some l => runLine l s

/-- The state with one command about to be issued: the next script line writes the command's byte to `CMD`, and the
operand registers its binding names hold values, as rules R80 and R233 require of the host before that write. -/
def State.withFetchWord (s : State) (nbits w : Nat) : State :=
  insertLine (.wr (regIndex .cmd) (.lit ((tableBytes nbits w).headD 0).toNat))
    (match decodeTableWord nbits w with
      | some i => provideOperands i s
      | none => s)

end Sys2Proof.Machine
end

