-- ==== Sys2Proof/Safety.lean ====
section
/-! DEFINITION. The terms claims about runs are stated in: what is observed of a state and when a run has ended
(30_encoding.md rule R82), which states the flags and the result registers agree in (10_state.md rules R23, R29, R30,
R32, R37), and the values of field elements as numbers. -/

namespace Sys2Proof.Machine

/-- An event as the host may see it: the error kind of an abort is not visible (R37, R201). -/
inductive VisibleEvent where
  | returned (code : Byte) (q0 q1 : Word)
  | burn (desc : BurnDescriptor) (amount : Budget)
  | aborted (code : Byte)
  | rejected (code : Byte)
  deriving DecidableEq, Repr

/-- An event with the diagnosis taken out. -/
def visibleEvent : Event → VisibleEvent
  | .returned code q0 q1 => .returned code q0 q1
  | .burn desc amount => .burn desc amount
  | .aborted code _ => .aborted code
  | .rejected code => .rejected code

/-- What is observed at the end of a run (R82): `STATUS`, `CMD`, every register that holds a value, the values the
run's reads returned, and the event trace. -/
structure Observation where
  a0 : Option Word
  a1 : Option Word
  a2 : Option Word
  a3 : Option Word
  q0 : Option Word
  q1 : Option Word
  cmd : Byte
  status : BitVec 32
  budget : Option Budget
  burnAmt : Option Budget
  trace : List VisibleEvent
  reads : List ReadEntry
  deriving DecidableEq, Repr

/-- The observation of a state (R82). -/
def observe (s : State) : Observation :=
  { a0 := s.a0, a1 := s.a1, a2 := s.a2, a3 := s.a3, q0 := s.q0, q1 := s.q1, cmd := s.cmd
    status := statusWord s.status, budget := s.budget, burnAmt := s.burnAmt
    trace := s.trace.map visibleEvent, reads := s.reads }

/-- A run has ended when no command is executing (R82); a run that stays BUSY has no final state. -/
abbrev runEnded (s : State) : Prop := s.status.phase ≠ .busy

/-- No flag is set and no result is held: the state of the flags while IDLE and while BUSY (R30, R55). -/
def NothingShown (s : State) : Prop :=
  s.status.outv = false ∧ s.status.abort = false ∧ s.status.burnReq = false ∧ s.status.illCmd = false
    ∧ s.q0 = none ∧ s.q1 = none ∧ s.burnAmt = none

/-- The last command succeeded: `OUTV` alone is set, `Q0` and `Q1` hold what the trace's last event returned, and no
burn amount is held (R23, R28, R37, R81). -/
def ResultShown (s : State) : Prop :=
  s.status.outv = true ∧ s.status.abort = false ∧ s.status.burnReq = false ∧ s.status.illCmd = false
    ∧ s.burnAmt = none
    ∧ (decodeCode s.cmd).isSome = true
    ∧ ∃ q0 q1 before, s.q0 = some q0 ∧ s.q1 = some q1 ∧ s.trace = before ++ [.returned s.cmd q0 q1]

/-- The last command took the failure path: `ABORT` and `BURN_REQ` alone are set, no result is held, and `BURN_AMT`
holds the amount of the burn request the trace ends with, followed by the abort of ECADD (R28, R32, R203). -/
def FailureShown (s : State) : Prop :=
  s.status.outv = false ∧ s.status.abort = true ∧ s.status.burnReq = true ∧ s.status.illCmd = false
    ∧ s.q0 = none ∧ s.q1 = none
    ∧ s.cmd = 0x30
    ∧ ∃ amount kind before,
        s.burnAmt = some amount ∧ s.trace = before ++ [.burn burnDescriptor amount, .aborted 0x30 kind]

/-- The last write to `CMD` was rejected: `ILLCMD` alone is set and nothing is held (R28, R75). -/
def RejectionShown (s : State) : Prop :=
  s.status.outv = false ∧ s.status.abort = false ∧ s.status.burnReq = false ∧ s.status.illCmd = true
    ∧ s.q0 = none ∧ s.q1 = none ∧ s.burnAmt = none
    ∧ (decodeCode s.cmd).isSome = false
    ∧ ∃ before, s.trace = before ++ [.rejected s.cmd]

/-- The flags, the result registers, `CMD` and the trace agree (R23, R29, R30, R32, R37). While IDLE no command has been
issued since reset; while DONE exactly one of the three ends has happened. While BUSY one of the two commands that can
hang is running: that part is the model's choice (log entry 4), because by R29 a core is BUSY during every command, and
only the fusing of start and completion keeps the others from being seen there. -/
def Consistent (s : State) : Prop :=
  match s.status.phase with
  | .idle => NothingShown s ∧ s.cmd = 0x00 ∧ s.trace = []
  | .busy => NothingShown s ∧ (s.cmd = instrCode .montinv ∨ s.cmd = instrCode .montdiv)
  | .done => ResultShown s ∨ FailureShown s ∨ RejectionShown s

/-- Whether a register holds a value (R22). `CMD` and `STATUS` always do. -/
def holdsValue (r : Reg) (s : State) : Bool :=
  match r with
  | .a0 => s.a0.isSome
  | .a1 => s.a1.isSome
  | .a2 => s.a2.isSome
  | .a3 => s.a3.isSome
  | .q0 => s.q0.isSome
  | .q1 => s.q1.isSome
  | .cmd => true
  | .status => true
  | .budget => s.budget.isSome
  | .burnAmt => s.burnAmt.isSome

/-- `s` after a command has succeeded, and nothing else has changed (R80, R81): the frame of a successful command. -/
def afterReturn (code : Byte) (q0 q1 : Word) (s : State) : State :=
  { s with
    q0 := some q0, q1 := some q1, burnAmt := none, cmd := code
    status := { phase := .done, outv := true, abort := false, burnReq := false, illCmd := false }
    trace := s.trace ++ [.returned code q0 q1] }

/-- `s` after ECADD has taken the failure path, and nothing else has changed (R203). -/
def afterFailure (kind : ErrorKind) (amount : Budget) (s : State) : State :=
  { s with
    q0 := none, q1 := none, burnAmt := some amount, cmd := 0x30
    status := { phase := .done, outv := false, abort := true, burnReq := true, illCmd := false }
    trace := s.trace ++ [.burn { inWords := 4, outWords := 2 } amount, .aborted 0x30 kind] }

/-- `s` after a reserved code was written to `CMD`, and nothing else has changed (R75). -/
def afterRejection (code : Byte) (s : State) : State :=
  { s with
    q0 := none, q1 := none, burnAmt := none, cmd := code
    status := { phase := .done, outv := false, abort := false, burnReq := false, illCmd := true }
    trace := s.trace ++ [.rejected code] }

/-- `s` after a command that never completes was started, and nothing else has changed (R33, R80, R137). -/
def afterHang (code : Byte) (s : State) : State :=
  { s with
    q0 := none, q1 := none, burnAmt := none, cmd := code
    status := { phase := .busy, outv := false, abort := false, burnReq := false, illCmd := false } }

/-- The fourteen codes of the command table (R71). -/
def commandCodes : List Byte :=
  [0x01, 0x02, 0x03, 0x04, 0x05, 0x06, 0x07, 0x08, 0x10, 0x11, 0x20, 0x21, 0x22, 0x30]

/-- `s` with a value in operand register `Ai`. -/
def setOperand (i : Fin 4) (v : Word) (s : State) : State :=
  match i with
  | 0 => { s with a0 := some v }
  | 1 => { s with a1 := some v }
  | 2 => { s with a2 := some v }
  | 3 => { s with a3 := some v }

/-- The content of result register `Qj`. -/
def resultOf (j : Fin 2) (s : State) : Option Word :=
  match j with
  | 0 => s.q0
  | 1 => s.q1

/-- ECADD can start: no command runs, and the binding of R72 holds the points `(x1, y1)`, `(x2, y2)` and a budget. -/
def holdsPoints (x1 y1 x2 y2 : Word) (budget : Budget) (s : State) : Prop :=
  runEnded s ∧ s.a0 = some x1 ∧ s.a1 = some y1 ∧ s.a2 = some x2 ∧ s.a3 = some y2 ∧ s.budget = some budget

/-- `mont(x) = x * R mod N`, with `R` congruent to `2^256` (R13). -/
def montNat (x : Nat) : Nat := x * W % modN

/-- `std(m) = m * RINV mod N` (R13). -/
def stdNat (m : Nat) : Nat := m * modRInv % modN

/-- The invariants (a) to (d) of the inverse engine's loop for an operand `base` (R135). -/
def InverseLoopInvariant (base : Nat) (r : InvRegs) : Prop :=
  r.u.toNat * constR2.toNat % modN = r.b.toNat * base % modN
    ∧ r.v.toNat * constR2.toNat % modN = r.c.toNat * base % modN
    ∧ r.b.toNat < modN ∧ r.c.toNat < modN
    ∧ Nat.gcd r.u.toNat r.v.toNat = Nat.gcd base modN
    ∧ (base % modN ≠ 0 → 1 ≤ r.u.toNat ∧ 1 ≤ r.v.toNat)

end Sys2Proof.Machine
end

