-- ==== Sys2Proof/Certificates/Slice0/Obligations.lean ====
section
/-! DEFINITION. The statements for the provers, in the spec's order: reset, the port and the script, the flags and the
phases, then the commands unit by unit. A statement about a command says that `exec` answers a next state, and gives
the whole of it: `afterReturn`, `afterFailure`, `afterRejection` and `afterHang` (Safety.lean) are `s` with exactly the
registers, flags and trace changed that the spec names, so each is the command's frame as well as its result. -/

open Sys2Proof Sys2Proof.Machine

/-! Reset (10_state.md rule R38, 70_reset_and_hazards.md rules R230, R231). -/

/-- What every piece of state holds after reset: the table of R38, whose every value is the spec's choice (D9); log
entry 1. -/
def Obligations.ResetValues : Prop :=
  State.reset.a0 = none ∧ State.reset.a1 = none ∧ State.reset.a2 = none ∧ State.reset.a3 = none
    ∧ State.reset.q0 = none ∧ State.reset.q1 = none
    ∧ State.reset.cmd = 0x00 ∧ State.reset.status.phase = .idle ∧ statusWord State.reset.status = 0x00000000#32
    ∧ State.reset.budget = none ∧ State.reset.burnAmt = none ∧ State.reset.trace = []

/-- R230: reset can occur in any phase, abandons a command in progress without a result, a burn request or an abort,
and brings the core to its reset state. That the host's own side stays is the model's choice (log entry 5). -/
def Obligations.ResetEventFromAnyState : Prop :=
  ∀ s : State, fetchLine s = some .reset →
    step s = .next { State.reset with script := s.script, line := s.line + 1, reads := s.reads }

/-! Decoding (30_encoding.md rules R70, R71). -/

/-- R71: the fourteen codes, and every other byte reserved. -/
def Obligations.CommandCodes : Prop :=
  decode [0x01] = .ok .mulw [] ∧ decode [0x02] = .ok .addmod [] ∧ decode [0x03] = .ok .submod []
    ∧ decode [0x04] = .ok .redc [] ∧ decode [0x05] = .ok .tomont [] ∧ decode [0x06] = .ok .frommont []
    ∧ decode [0x07] = .ok .montmul [] ∧ decode [0x08] = .ok .montexp [] ∧ decode [0x10] = .ok .montinv []
    ∧ decode [0x11] = .ok .montdiv [] ∧ decode [0x20] = .ok .isinf [] ∧ decode [0x21] = .ok .rangechk []
    ∧ decode [0x22] = .ok .oncurve [] ∧ decode [0x30] = .ok .ecadd []
    ∧ ∀ code : Byte, code ∉ commandCodes → decode [code] = .rejected (.reserved code)

/-- R70, R77: decoding and encoding agree both ways, whatever bytes follow, and through the numbering of
spec/opcode_table.json. -/
def Obligations.DecodeEncodeAgree : Prop :=
  (∀ (i : Instr) (rest : List Byte), i.wellFormed = true → decode (encode i ++ rest) = .ok i rest)
    ∧ (∀ (bytes rest : List Byte) (i : Instr), decode bytes = .ok i rest → bytes = encode i ++ rest)
    ∧ ∀ i : Instr, decodeTableWord 8 (instrCode i).toNat = some i

/-! The step, the script and the port (10_state.md rules R27, R31; 20_memory.md rules R51 to R55; R78, R79). -/

/-- R31, R78: when the script's next line writes a byte to `CMD` that decodes to a command, a step is `exec` of that
command, with the script moved on by one line; a mnemonic line is the same write. That the host's script and its
position stand in the state is the model's choice (log entry 5). -/
def Obligations.StepRunsDecodedCommand : Prop :=
  (∀ (s : State) (v : Value) (code : Byte) (i : Instr) (rest : List Byte),
      fetchLine s = some (.wr (regIndex .cmd) v) → scriptValue v s = some code.toNat → runEnded s →
      decode [code] = .ok i rest → i.wellFormed = true →
      step s = exec i { s with line := s.line + 1 })
    ∧ ∀ (s : State) (i : Instr), fetchLine s = some (.command i) → runEnded s →
        step s = exec i { s with line := s.line + 1 }

/-- R78, R79: every line of the script but a mnemonic and the reset event, which have statements of their own. `WR` is
the host write it names, at every index and in every phase; `RD` reads once; `WAIT` reads `STATUS` and moves on only
when the phase is DONE; `IFSET` jumps to its label when the field of the last `STATUS` value read is 1 and else moves
on; a label moves on; `HALT` and the script's end change nothing; a line that cannot be carried out is refused by name;
and the two lines of `RUN` issue the command and then wait for it. The forms of these steps are the model's choice (log
entry 5). -/
def Obligations.ScriptLinesAct : Prop :=
  (∀ (s : State) (index : RegIndex) (v : Value) (n : Nat), fetchLine s = some (.wr index v) →
      scriptValue v s = some n → step s = hostWrite index n { s with line := s.line + 1 })
    ∧ (∀ (s : State) (index : RegIndex) (v : Value), fetchLine s = some (.wr index v) → scriptValue v s = none →
        step s = .refused .scriptNothingRead)
    ∧ (∀ (s : State) (index : RegIndex) (r : Refusal), fetchLine s = some (.rd index) → readIndex index s = .error r →
        step s = .refused r)
    ∧ (∀ (s : State) (index : RegIndex) (v : Nat), fetchLine s = some (.rd index) → readIndex index s = .ok v →
      step s = .next { s with line := s.line + 1, reads := s.reads ++ [⟨index, v⟩] })
    ∧ (∀ s : State, fetchLine s = some .wait → s.status.phase = .done →
        step s = .next { s with line := s.line + 1, reads := s.reads ++ [⟨7, (statusWord s.status).toNat⟩] })
    ∧ (∀ s : State, fetchLine s = some .wait → s.status.phase ≠ .done →
        step s = .next { s with reads := s.reads ++ [⟨7, (statusWord s.status).toNat⟩] })
    ∧ (∀ (s : State) (field : StatusField) (target v k : Nat), fetchLine s = some (.ifset field target) →
        lastStatusRead s = some v → fieldOf field v = 1 → labelLine target s.script = some k →
        step s = .next { s with line := k })
    ∧ (∀ (s : State) (field : StatusField) (target v : Nat), fetchLine s = some (.ifset field target) →
        lastStatusRead s = some v → fieldOf field v ≠ 1 → step s = .next { s with line := s.line + 1 })
    ∧ (∀ (s : State) (field : StatusField) (target : Nat), fetchLine s = some (.ifset field target) →
        lastStatusRead s = none → step s = .refused .scriptNoStatusRead)
    ∧ (∀ (s : State) (field : StatusField) (target v : Nat), fetchLine s = some (.ifset field target) →
        lastStatusRead s = some v → fieldOf field v = 1 → labelLine target s.script = none →
        step s = .refused (.scriptNoSuchLabel target))
    ∧ (∀ (s : State) (name : Nat), fetchLine s = some (.label name) → step s = .next { s with line := s.line + 1 })
    ∧ (∀ s : State, fetchLine s = some .halt → step s = .next s)
    ∧ (∀ s : State, fetchLine s = none → step s = .next s)
    ∧ ∀ (s t : State) (i : Instr), runEnded s → s.script[s.line]? = (expandPseudo (.run i))[0]? →
        s.script[s.line + 1]? = (expandPseudo (.run i))[1]? → exec i { s with line := s.line + 1 } = .next t →
        (t.status.phase = .done → Sys2Proof.core.run 2 s
            = .next { t with line := s.line + 2, reads := s.reads ++ [⟨7, (statusWord t.status).toNat⟩] })
          ∧ (t.status.phase ≠ .done → Sys2Proof.core.run 2 s
            = .next { t with line := s.line + 1, reads := s.reads ++ [⟨7, (statusWord t.status).toNat⟩] })

/-- R79: `MOVQ Ai, Qj` reads the result register and writes the value read to the operand register, in two steps, and
changes nothing else. That a script line is a step is the model's choice (log entry 5). -/
def Obligations.MovqCopiesResult : Prop :=
  ∀ (s : State) (dst : Fin 4) (src : Fin 2) (v : Word), runEnded s → resultOf src s = some v →
    s.script[s.line]? = (expandPseudo (.movq dst src))[0]? →
    s.script[s.line + 1]? = (expandPseudo (.movq dst src))[1]? →
    Sys2Proof.core.run 2 s = .next (setOperand dst v
      { s with line := s.line + 2, reads := s.reads ++ [⟨⟨4 + src.val, by omega⟩, v.toNat⟩] })

/-- R51: what a write and a read do at each of the 16 indices. Writes take effect while no command runs; the operand
registers and `BUDGET` take the data, a code written to `CMD` issues, and everything else drops the write; a read
gives the register's value, and a reserved index gives none. -/
def Obligations.RegisterIndexMap : Prop :=
  (∀ (s : State) (v : Word), runEnded s →
      hostWrite 0 v.toNat s = .next { s with a0 := some v } ∧ hostWrite 1 v.toNat s = .next { s with a1 := some v }
        ∧ hostWrite 2 v.toNat s = .next { s with a2 := some v }
        ∧ hostWrite 3 v.toNat s = .next { s with a3 := some v })
    ∧ (∀ (s : State) (code : Byte), runEnded s → hostWrite 6 code.toNat s = writeCmd code s)
    ∧ (∀ (s : State) (v : Budget), runEnded s → hostWrite 8 v.toNat s = .next { s with budget := some v })
    ∧ (∀ (s : State) (index : RegIndex) (data : Nat), index = 4 ∨ index = 5 ∨ index = 7 ∨ 9 ≤ index →
        hostWrite index data s = .next s)
    ∧ (∀ (s : State) (v : Word),
        (s.a0 = some v → readIndex 0 s = .ok v.toNat) ∧ (s.a1 = some v → readIndex 1 s = .ok v.toNat)
          ∧ (s.a2 = some v → readIndex 2 s = .ok v.toNat) ∧ (s.a3 = some v → readIndex 3 s = .ok v.toNat)
          ∧ (s.q0 = some v → readIndex 4 s = .ok v.toNat) ∧ (s.q1 = some v → readIndex 5 s = .ok v.toNat))
    ∧ (∀ s : State, readIndex 6 s = .ok s.cmd.toNat ∧ readIndex 7 s = .ok (statusWord s.status).toNat)
    ∧ (∀ (s : State) (v : Budget),
        (s.budget = some v → readIndex 8 s = .ok v.toNat) ∧ (s.burnAmt = some v → readIndex 9 s = .ok v.toNat))
    ∧ ∀ (s : State) (index : RegIndex), 10 ≤ index → hostRead index s = .refused (.readReservedIndex index)

/-- R22: a host read of a register that holds no value is refused. -/
def Obligations.ReadOfNoValueIsRefused : Prop :=
  ∀ (s : State) (r : Reg), holdsValue r s = false → hostRead (regIndex r) s = .refused (.readHoldsNoValue r)

/-- R55: every write while BUSY is dropped, to `CMD` and to every other register, and no command starts. -/
def Obligations.BusyDropsWrites : Prop :=
  ∀ s : State, s.status.phase = .busy →
    (∀ (index : RegIndex) (data : Nat), hostWrite index data s = .next s) ∧ ∀ i : Instr, exec i s = .next s

/-- R75: a reserved code written to `CMD` computes nothing and is recorded as an illegal command. -/
def Obligations.ReservedCodeRejected : Prop :=
  ∀ (s : State) (code : Byte), runEnded s → code ∉ commandCodes →
    hostWrite 6 code.toNat s = .next (afterRejection code s)

/-- R52: the big-endian byte view of a word and its inverse. -/
def Obligations.ByteViewRoundTrip : Prop :=
  (∀ v : Word, (wordBytes v).length = 32)
    ∧ (∀ (v : Word) (j : Nat), j < 32 → (wordBytes v)[j]? = some (v.extractLsb' (8 * (31 - j)) 8))
    ∧ (∀ v : Word, v.toNat = ((List.range 32).map fun j =>
        (v.extractLsb' (8 * (31 - j)) 8).toNat * 2 ^ (8 * (31 - j))).sum)
    ∧ (∀ v : Word, bytesWord (wordBytes v) = v)
    ∧ ∀ bytes : List Byte, bytes.length = 32 → wordBytes (bytesWord bytes) = bytes

/-- R53, R79: the byte windows and the pseudo-commands that move whole points. 128 bytes loaded by `LDIN` are the
input window byte for byte, the four words of `LDPT` are the operand registers, and the 32 bytes of a `MemWrite` are
those of its register, with nothing else changed. A `MemRead` gives the bytes of its result register, and is refused
where that register holds no value; `STOUT` reads both result registers, and the output window is their 64 bytes, `Q0`
first. That a script line is a step is the model's choice (log entry 5). -/
def Obligations.ByteWindowAccesses : Prop :=
  (∀ (s : State) (bytes : List Byte), runEnded s → bytes.length = 128 →
      (∀ k, k < 4 → s.script[s.line + k]? = (expandPseudo (.ldin bytes))[k]?) →
      ∃ t, Sys2Proof.core.run 4 s = .next t ∧ inWindow t = some bytes
        ∧ t = { s with a0 := t.a0, a1 := t.a1, a2 := t.a2, a3 := t.a3, line := s.line + 4 })
    ∧ (∀ (s : State) (x1 y1 x2 y2 : Word), runEnded s →
        (∀ k, k < 4 →
          s.script[s.line + k]? = (expandPseudo (.ldpt x1.toNat y1.toNat x2.toNat y2.toNat))[k]?) →
        Sys2Proof.core.run 4 s
          = .next { s with a0 := some x1, a1 := some y1, a2 := some x2, a3 := some y2, line := s.line + 4 })
    ∧ (∀ (s : State) (i : Fin 4) (bytes : List Byte), runEnded s → bytes.length = 32 →
        ∃ v : Word, wordBytes v = bytes ∧ memWrite i bytes s = .next (setOperand i v s))
    ∧ (∀ (s : State) (j : Fin 2) (v : Word), resultOf j s = some v → memRead j s = .ok (wordBytes v))
    ∧ (∀ (s : State) (j : Fin 2), resultOf j s = none →
        memRead j s = .error (.readHoldsNoValue (if j = 0 then .q0 else .q1)))
    ∧ ∀ (s : State) (x y : Word), s.q0 = some x → s.q1 = some y →
        s.script[s.line]? = (expandPseudo .stout)[0]? → s.script[s.line + 1]? = (expandPseudo .stout)[1]? →
        Sys2Proof.core.run 2 s
            = .next { s with line := s.line + 2, reads := s.reads ++ [⟨4, x.toNat⟩, ⟨5, y.toNat⟩] }
          ∧ outWindow s = some (wordBytes x ++ wordBytes y)

/-! The flags, the phases and what commands may touch (10_state.md rules R22 to R39). -/

/-- R28: the fields of `STATUS` stand at their bits, `PHASE` as 0 for IDLE, 1 for BUSY and 2 for DONE, and bits 31:6
read 0. -/
def Obligations.StatusWordLayout : Prop :=
  ∀ st : Status,
    (st.phase = .idle → ((statusWord st).extractLsb' 0 2).toNat = 0)
      ∧ (st.phase = .busy → ((statusWord st).extractLsb' 0 2).toNat = 1)
      ∧ (st.phase = .done → ((statusWord st).extractLsb' 0 2).toNat = 2)
      ∧ (statusWord st).getLsbD 2 = st.outv ∧ (statusWord st).getLsbD 3 = st.abort
      ∧ (statusWord st).getLsbD 4 = st.burnReq ∧ (statusWord st).getLsbD 5 = st.illCmd
      ∧ ∀ k, 6 ≤ k → (statusWord st).getLsbD k = false

/-- The reset state is consistent (R30, R38). -/
def Obligations.ResetIsConsistent : Prop := Consistent State.reset

/-- Every step from a consistent state leads to one. In particular while DONE exactly one of `OUTV`, `ABORT`, `ILLCMD`
is set and `BURN_REQ = ABORT`, results are held exactly when `OUTV = 1`, a burn amount exactly when `BURN_REQ = 1`,
and a core that is BUSY after a step runs MONTINV or MONTDIV. It joins R23, R29, R30 and R32 with the spec's own inferences in
R30 ("exactly one of `OUTV`, `ABORT`, `ILLCMD` is 1") and R186 ("ECADD always completes"). That a BUSY core has MONTINV
or MONTDIV in `CMD` is the model's choice and no rule's: it holds because start and completion of a command are one step
here (log entry 4), where by R29 every command is BUSY while it runs. -/
def Obligations.StepKeepsConsistent : Prop :=
  ∀ s t : State, Consistent s → step s = .next t → Consistent t

/-- In this model a step changes the phase only by the reset event, to IDLE, or by a write to `CMD` while no command
runs, and then never to IDLE. R29 gives that nothing but reset leads to IDLE. That no step leaves BUSY for DONE is the
model's choice and no rule's: by R29 and R81 a command's completion takes BUSY to DONE with no write and no reset, and
it has no step of its own because start and completion of a command are one step here, so that BUSY is a hang (log
entry 4). That reset is a line of the script is the model's choice too (log entry 5). -/
def Obligations.OnlyCommandsAndResetChangeThePhase : Prop :=
  ∀ s t : State, step s = .next t → t.status.phase ≠ s.status.phase →
    (fetchLine s = some .reset ∧ t.status.phase = .idle)
      ∨ (runEnded s ∧ t.status.phase ≠ .idle
          ∧ ((∃ v, fetchLine s = some (.wr (regIndex .cmd) v)) ∨ ∃ i, fetchLine s = some (.command i)))

/-- In this model a core that is BUSY stays as it is for any number of steps of a script without the reset event; only
the host's position and what it has read change. That a BUSY core drops writes is R55, and that a command whose outcome
is `Diverge` never ends is R29 and R137. That EVERY BUSY core stays BUSY is the model's choice and no rule's: by R29 and
R81 a BUSY core whose command ends goes to DONE, and here BUSY is only ever a hang, because start and completion of a
command are one step (log entry 4). The host's script and its reset line are the model's choice too (log entry 5). -/
def Obligations.HungCoreStaysHung : Prop :=
  ∀ (n : Nat) (s t : State), s.status.phase = .busy → HostLine.reset ∉ s.script →
    Sys2Proof.core.run n s = .next t → t = { s with line := t.line, reads := t.reads }

/-- R26: no command changes an operand register or `BUDGET`; the trace only grows (R37, R81); and a command leaves the
host's script, its position and its reads alone, which are the model's own fields (log entry 5). -/
def Obligations.CommandFrame : Prop :=
  ∀ (i : Instr) (s t : State), exec i s = .next t →
    t.a0 = s.a0 ∧ t.a1 = s.a1 ∧ t.a2 = s.a2 ∧ t.a3 = s.a3 ∧ t.budget = s.budget
      ∧ t.script = s.script ∧ t.line = s.line ∧ t.reads = s.reads ∧ ∃ events, t.trace = s.trace ++ events

/-- The spec's own inference R39: what a command does is a function of the operand registers and `BUDGET`: from two
states that agree on them, whatever ran before, a command ends alike. -/
def Obligations.OutcomeDependsOnOperandsOnly : Prop :=
  ∀ (i : Instr) (s1 s2 t1 : State), runEnded s1 → runEnded s2 →
    s1.a0 = s2.a0 → s1.a1 = s2.a1 → s1.a2 = s2.a2 → s1.a3 = s2.a3 → s1.budget = s2.budget →
    exec i s1 = .next t1 →
    ∃ t2 events, exec i s2 = .next t2 ∧ t1.q0 = t2.q0 ∧ t1.q1 = t2.q1 ∧ t1.cmd = t2.cmd ∧ t1.status = t2.status
      ∧ t1.burnAmt = t2.burnAmt ∧ t1.trace = s1.trace ++ events ∧ t2.trace = s2.trace ++ events

/-- R22, R80 (1): a command whose binding names a register that holds no value is refused, by the name of such a
register. -/
def Obligations.UnheldOperandRefuses : Prop :=
  ∀ (i : Instr) (s : State) (r : Reg), runEnded s → r ∈ operandBinding i → holdsValue r s = false →
    ∃ r', r' ∈ operandBinding i ∧ holdsValue r' s = false ∧ exec i s = .refused (.operandHoldsNoValue r')

/-- R80 (2), R233: a command whose binding holds values starts: it answers a next state, with its code in `CMD`. -/
def Obligations.HeldOperandsStart : Prop :=
  ∀ (i : Instr) (s : State), runEnded s → (∀ r, r ∈ operandBinding i → holdsValue r s = true) →
    ∃ t, exec i s = .next t ∧ t.cmd = instrCode i ∧ t.status.phase ≠ .idle ∧ t.status.illCmd = false

/-- R201: nothing a host can observe depends on an error kind, now or later: failures of any two kinds are observed
alike, and two states that are observed alike and whose hosts run the same script step alike. -/
def Obligations.ErrorKindIsInvisible : Prop :=
  (∀ (s : State) (k1 k2 : ErrorKind) (amount : Budget),
      observe (afterFailure k1 amount s) = observe (afterFailure k2 amount s))
    ∧ ∀ s1 s2 : State, observe s1 = observe s2 → s1.script = s2.script → s1.line = s2.line →
        match step s1, step s2 with
        | .next t1, .next t2 => observe t1 = observe t2 ∧ t1.script = t2.script ∧ t1.line = t2.line
        | .refused r1, .refused r2 => r1 = r2
        | _, _ => False

/-! The Field Engine (40_field_engine.md). -/

/-- R92: the two result words are the halves of the exact product, which is commutative. -/
def Obligations.MulwResult : Prop :=
  ∀ (s : State) (a b : Word), runEnded s → s.a0 = some a → s.a1 = some b →
    ∃ lo hi : Word, exec .mulw s = .next (afterReturn 0x01 lo hi s)
      ∧ lo.toNat = a.toNat * b.toNat % W ∧ hi.toNat = a.toNat * b.toNat / W ∧ mulw a b = mulw b a

/-- R94: the sum modulo `N`, formed without loss. -/
def Obligations.AddmodResult : Prop :=
  ∀ (s : State) (a b : Word), runEnded s → s.a0 = some a → s.a1 = some b →
    ∃ q : Word, exec .addmod s = .next (afterReturn 0x02 q 0 s) ∧ q.toNat = (a.toNat + b.toNat) % modN

/-- R95: the mathematical difference modulo `N`, never negative. -/
def Obligations.SubmodResult : Prop :=
  ∀ (s : State) (a b : Word), runEnded s → s.a0 = some a → s.a1 = some b →
    ∃ q : Word, exec .submod s = .next (afterReturn 0x03 q 0 s)
      ∧ (q.toNat : Int) = ((a.toNat : Int) - (b.toNat : Int)) % (modN : Int)

/-- R97, R100: REDC on every operand pair, its pseudocode read over the numbers: each 256-bit line is modulo `W`. -/
def Obligations.RedcResult : Prop :=
  ∀ (s : State) (low high : Word), runEnded s → s.a0 = some low → s.a1 = some high →
    ∃ q aHigh : Nat, ∃ r : Word, exec .redc s = .next (afterReturn 0x04 r 0 s)
      ∧ q = low.toNat * constNPrime.toNat % W
      ∧ aHigh = ((high.toNat + q * modN / W) % W + (low.toNat + q * modN % W) / W) % W
      ∧ r.toNat = if aHigh ≥ modN then aHigh - modN else aHigh

/-- The spec's own inference in R98: under the precondition `high < N`, the result of the command REDC is `T * R^(-1)
mod N`. -/
def Obligations.RedcContract : Prop :=
  ∀ (s : State) (low high : Word), runEnded s → s.a0 = some low → s.a1 = some high → high.toNat < modN →
    ∃ r : Word, exec .redc s = .next (afterReturn 0x04 r 0 s) ∧ r.toNat < modN
      ∧ r.toNat = (low.toNat + W * high.toNat) * modRInv % modN

/-- The spec's own inference R99: the low half of `T + q*N` is always zero, the carry is 1 exactly when `low` is not
zero, the high half is exact, nothing wraps under the precondition, and the result is the one residue in `[0, N)` with
`S * W` congruent to `T`. -/
def Obligations.RedcCarryFacts : Prop :=
  ∀ low high : Word, ∃ q : Nat, q = low.toNat * constNPrime.toNat % W
    ∧ (low.toNat + q * modN % W) % W = 0
    ∧ (low.toNat + q * modN % W) / W = (if low = 0 then 0 else 1)
    ∧ low.toNat + W * high.toNat + q * modN
        = W * (high.toNat + q * modN / W + (low.toNat + q * modN % W) / W)
    ∧ (high.toNat < modN →
        high.toNat + q * modN / W + (low.toNat + q * modN % W) / W < 2 * modN
          ∧ (redcHigh low high).toNat = high.toNat + q * modN / W + (low.toNat + q * modN % W) / W
          ∧ ∀ S : Nat, S < modN →
              (S * W % modN = (low.toNat + W * high.toNat) % modN ↔ S = (redc low high).toNat))

/-- R101: the Montgomery encoding of the operand reduced modulo `N`, for every 256-bit operand, through REDC of the
exact product with `R2`. -/
def Obligations.TomontResult : Prop :=
  ∀ (s : State) (a : Word), runEnded s → s.a0 = some a →
    ∃ q lo hi : Word, exec .tomont s = .next (afterReturn 0x05 q 0 s) ∧ q.toNat = montNat (a.toNat % modN)
      ∧ q = redc lo hi ∧ lo.toNat = a.toNat % modN * constR2.toNat % W
      ∧ hi.toNat = a.toNat % modN * constR2.toNat / W

/-- R103: the Montgomery decoding of every 256-bit operand. -/
def Obligations.FrommontResult : Prop :=
  ∀ (s : State) (m : Word), runEnded s → s.a0 = some m →
    ∃ q : Word, exec .frommont s = .next (afterReturn 0x06 q 0 s) ∧ q.toNat = stdNat m.toNat ∧ q = redc m 0

/-- The round trips of the two conversions: the source's for `a` in `[0, N)`, and the spec's own inference R104 for an
arbitrary word and for the other way round. -/
def Obligations.MontgomeryRoundTrip : Prop :=
  (∀ a : Word, a.toNat < modN → frommont (tomont ⟨a⟩) = ⟨a⟩)
    ∧ (∀ a : Word, (frommont (tomont ⟨a⟩)).word.toNat = a.toNat % modN)
    ∧ ∀ m : Word, m.toNat < modN → tomont (frommont ⟨m⟩) = ⟨m⟩

/-- R105: MONTMUL on every operand pair is REDC of the exact product; under its precondition `a * b < N * W` that is
`a * b * R^(-1) mod N`. -/
def Obligations.MontmulResult : Prop :=
  ∀ (s : State) (a b : Word), runEnded s → s.a0 = some a → s.a1 = some b →
    ∃ q : Word, exec .montmul s = .next (afterReturn 0x07 q 0 s)
      ∧ q = redc (BitVec.ofNat 256 (a.toNat * b.toNat % W)) (BitVec.ofNat 256 (a.toNat * b.toNat / W))
      ∧ (a.toNat * b.toNat < modN * W → q.toNat = a.toNat * b.toNat * modRInv % modN)

/-- The spec's own inference R106, and its linearity remarks in R94, R95: the Montgomery map respects products, sums
and differences, and is a bijection of `[0, N)` that sends only 0 to 0. -/
def Obligations.MontgomeryAlgebra : Prop :=
  ∀ x y a b : Word, x.toNat < modN → y.toNat < modN → a.toNat = montNat x.toNat → b.toNat = montNat y.toNat →
    (montmul ⟨a⟩ ⟨b⟩).word.toNat = montNat (x.toNat * y.toNat % modN)
      ∧ (addMont ⟨a⟩ ⟨b⟩).word.toNat = montNat ((x.toNat + y.toNat) % modN)
      ∧ (subMont ⟨a⟩ ⟨b⟩).word.toNat = montNat ((x.toNat + modN - y.toNat) % modN)
      ∧ (a = b ↔ x = y) ∧ (a = 0 ↔ x = 0)
      ∧ ∀ m : Nat, m < modN → ∃ z, z < modN ∧ montNat z = m

/-- R108 with the spec's own inference R109: MONTEXP completes for every base and exponent, its loop having used up
the exponent within its 256 passes; for a base below `N` the result is the Montgomery form of the power of the value
it stands for, `R` for the exponent 0. -/
def Obligations.MontexpResult : Prop :=
  ∀ (s : State) (base e : Word), runEnded s → s.a0 = some base → s.a1 = some e →
    ∃ q : Word, exec .montexp s = .next (afterReturn 0x08 q 0 s)
      ∧ (expLoop 256 { pow := ⟨montOne⟩, aux := e, base := ⟨base⟩ }).aux = 0
      ∧ ⟨q⟩ = (expLoop 256 { pow := ⟨montOne⟩, aux := e, base := ⟨base⟩ }).pow
      ∧ (e = 0 → q = montOne)
      ∧ (base.toNat < modN → q.toNat = montNat (stdNat base.toNat ^ e.toNat % modN))

/-! The Modular Inverse Engine (41_inverse_engine.md). -/

/-- R132 with the spec's own inferences there and in R133: halving an accumulator below `N` is exact, stays below `N`
and is multiplication by the inverse of 2; the carry branch is dead. -/
def Obligations.HalvingAnAccumulator : Prop :=
  ∀ x : Word, x.toNat < modN →
    (halveAcc x).toNat = (if x.toNat % 2 = 0 then x.toNat / 2 else (x.toNat + modN) / 2)
      ∧ (halveAcc x).toNat < modN
      ∧ 2 * (halveAcc x).toNat % modN = x.toNat
      ∧ carry256 x constN = 0

/-- The spec's own inference R135: the invariants (a) to (d) hold at the start of an inversion of any 256-bit operand,
and every outer iteration that the loop test admits keeps them. -/
def Obligations.InverseLoopKeepsInvariant : Prop :=
  ∀ base : Word, InverseLoopInvariant base.toNat (invLoad ⟨base⟩)
    ∧ ∀ r r' : InvRegs, InverseLoopInvariant base.toNat r → invDone r = false → invPass r = some r' →
        InverseLoopInvariant base.toNat r'

/-- The spec's own inference R139: 507 outer iterations are enough for an operand in `[1, N)`, and 509 for any operand
that is not a multiple of `N`. -/
def Obligations.InverseWithinItsBounds : Prop :=
  (∀ base : Word, 1 ≤ base.toNat → base.toNat < modN → (invLoop 507 (invLoad ⟨base⟩)).isSome = true)
    ∧ ∀ base : Word, base.toNat % modN ≠ 0 → (invLoop 509 (invLoad ⟨base⟩)).isSome = true

/-- The spec's own inferences R136, R138 and R139 about the loop of R131: for every 256-bit operand that is not a
multiple of `N` the inversion ends, within the fuel of R139, with `R2 * base^(-1) mod N` in `[1, N)`, the Montgomery
form of the inverse of the value the operand stands for. -/
def Obligations.MontinvResult : Prop :=
  ∀ (s : State) (base : Word), runEnded s → s.a0 = some base → base.toNat % modN ≠ 0 →
    ∃ q : Word, exec .montinv s = .next (afterReturn 0x10 q 0 s)
      ∧ 1 ≤ q.toNat ∧ q.toNat < modN
      ∧ q.toNat * base.toNat % modN = constR2.toNat
      ∧ montmul ⟨base⟩ ⟨q⟩ = ⟨montOne⟩
      ∧ ∀ x : Nat, x < modN → base.toNat = montNat x →
          ∃ y, y < modN ∧ x * y % modN = 1 ∧ q.toNat = montNat y

/-- R130, the source's property: the Montgomery product of a non-zero value's encoding and the engine's inverse of that
encoding decodes to 1. -/
def Obligations.InverseCorrectness : Prop :=
  ∀ a : Word, a.toNat ≠ 0 → a.toNat < modN →
    ∃ m : Mont, montinv (tomont ⟨a⟩) = some m ∧ frommont (montmul (tomont ⟨a⟩) m) = ⟨1⟩

/-- The spec's own inference in R137 from executing the loop literally: with a multiple of `N` the inversion never
ends: `PHASE` stays BUSY, no result, no failure path, no burn. -/
def Obligations.MontinvOfZeroHangs : Prop :=
  ∀ (s : State) (base : Word), runEnded s → s.a0 = some base → base.toNat % modN = 0 →
    exec .montinv s = .next (afterHang 0x10 s)

/-- R141 with the spec's own inferences R137 and R142: for every dividend and every divisor that is not a multiple of
`N`, MONTDIV gives the Montgomery-domain quotient; with a divisor that is one it never ends. -/
def Obligations.MontdivResult : Prop :=
  ∀ (s : State) (x y : Word), runEnded s → s.a0 = some x → s.a1 = some y →
    (y.toNat % modN ≠ 0 →
      ∃ q : Word, exec .montdiv s = .next (afterReturn 0x11 q 0 s)
        ∧ q.toNat < modN ∧ q.toNat * y.toNat % modN = montNat x.toNat
        ∧ ∀ x' y' : Nat, x' < modN → y' < modN → x.toNat = montNat x' → y.toNat = montNat y' →
            ∃ z, z < modN ∧ y' * z % modN = x' ∧ q.toNat = montNat z)
      ∧ (y.toNat % modN = 0 → exec .montdiv s = .next (afterHang 0x11 s))

/-! The Curve Validator (42_curve_validator.md). -/

/-- R151: 1 exactly for the pair of all-zero words, else 0. -/
def Obligations.IsinfResult : Prop :=
  ∀ (s : State) (x y : Word), runEnded s → s.a0 = some x → s.a1 = some y →
    exec .isinf s = .next (afterReturn 0x20 (if x.toNat = 0 ∧ y.toNat = 0 then 1 else 0) 0 s)

/-- R152: 1 exactly for a word below `N`, else 0. -/
def Obligations.RangechkResult : Prop :=
  ∀ (s : State) (v : Word), runEnded s → s.a0 = some v →
    exec .rangechk s = .next (afterReturn 0x21 (if v.toNat < modN then 1 else 0) 0 s)

/-- R153: 1 exactly when the curve equation holds modulo `N`, for any two words, else 0. -/
def Obligations.OncurveResult : Prop :=
  ∀ (s : State) (x y : Word), runEnded s → s.a0 = some x → s.a1 = some y →
    exec .oncurve s = .next (afterReturn 0x22
      (if y.toNat ^ 2 % modN = (x.toNat ^ 3 + 3) % modN then 1 else 0) 0 s)

/-- R156: which kind a validation reports, and that it reports none exactly for a valid point. -/
def Obligations.ValidationKinds : Prop :=
  ∀ x y : Word,
    (validateOne x y = none ↔ validPoint x y = true)
      ∧ (validPoint x y = true ↔ x.toNat < modN ∧ y.toNat < modN ∧ y.toNat ^ 2 % modN = (x.toNat ^ 3 + 3) % modN)
      ∧ (¬(x.toNat < modN ∧ y.toNat < modN) ↔ validateOne x y = some .coordinateOutOfRange)
      ∧ (validateOne x y = some .pointNotOnCurve
          ↔ x.toNat < modN ∧ y.toNat < modN ∧ y.toNat ^ 2 % modN ≠ (x.toNat ^ 3 + 3) % modN)

/-- The spec's own inference R157: no valid point has a zero coordinate, and two valid points with the same `x` have
equal or opposite `y`, which differ. -/
def Obligations.ValidPointFacts : Prop :=
  ∀ x y y' : Word, validPoint x y = true →
    y ≠ 0 ∧ x ≠ 0
      ∧ (validPoint x y' = true → y' = y ∨ y'.toNat = modN - y.toNat)
      ∧ y.toNat ≠ modN - y.toNat

/-! The Group Law (43_group_law.md). -/

/-- R172, R173: the two steps with a point at infinity. Both: the result is infinity, with no validation. One: the
other point, unchanged, if it is valid. -/
def Obligations.EcaddWithInfinity : Prop :=
  (∀ (s : State) (budget : Budget), holdsPoints 0 0 0 0 budget s → exec .ecadd s = .next (afterReturn 0x30 0 0 s))
    ∧ (∀ (s : State) (x y : Word) (budget : Budget), holdsPoints 0 0 x y budget s → validPoint x y = true →
        exec .ecadd s = .next (afterReturn 0x30 x y s))
    ∧ ∀ (s : State) (x y : Word) (budget : Budget), holdsPoints x y 0 0 budget s → validPoint x y = true →
        exec .ecadd s = .next (afterReturn 0x30 x y s)

/-- R174, R175, R203: where ECADD takes the failure path, and the whole of what that does, whatever the kind. A
supplied point that is not the infinity encoding is validated: a coordinate at or above `N` anywhere gives
`CoordinateOutOfRange`, else a point off the curve gives `PointNotOnCurve`; the burn amount is the whole budget. -/
def Obligations.EcaddFailurePath : Prop :=
  ∀ (s : State) (x1 y1 x2 y2 : Word) (budget : Budget), holdsPoints x1 y1 x2 y2 budget s →
    (∀ (kind : ErrorKind) (amount : Budget), ecadd x1 y1 x2 y2 budget = .fail kind amount →
      exec .ecadd s = .next (afterFailure kind budget s))
    ∧ ((x1, y1) ≠ (0, 0) → (x2, y2) ≠ (0, 0) →
      ((modN ≤ x1.toNat ∨ modN ≤ y1.toNat ∨ modN ≤ x2.toNat ∨ modN ≤ y2.toNat) →
        exec .ecadd s = .next (afterFailure .coordinateOutOfRange budget s))
      ∧ (x1.toNat < modN → y1.toNat < modN → x2.toNat < modN → y2.toNat < modN →
        (validPoint x1 y1 = false ∨ validPoint x2 y2 = false) →
        exec .ecadd s = .next (afterFailure .pointNotOnCurve budget s)))
    ∧ ((x1, y1) = (0, 0) → (x2, y2) ≠ (0, 0) →
      ((modN ≤ x2.toNat ∨ modN ≤ y2.toNat) → exec .ecadd s = .next (afterFailure .coordinateOutOfRange budget s))
      ∧ (x2.toNat < modN → y2.toNat < modN → validPoint x2 y2 = false →
        exec .ecadd s = .next (afterFailure .pointNotOnCurve budget s)))
    ∧ ((x1, y1) ≠ (0, 0) → (x2, y2) = (0, 0) →
      ((modN ≤ x1.toNat ∨ modN ≤ y1.toNat) → exec .ecadd s = .next (afterFailure .coordinateOutOfRange budget s))
      ∧ (x1.toNat < modN → y1.toNat < modN → validPoint x1 y1 = false →
        exec .ecadd s = .next (afterFailure .pointNotOnCurve budget s)))

/-- R176: two valid points with the same `x` and opposite `y` add to infinity; and step 4 comes before the doubling
step, also for `y1 = y2 = 0`, which no valid point has. -/
def Obligations.EcaddOfOpposites : Prop :=
  (∀ (s : State) (x y1 y2 : Word) (budget : Budget), holdsPoints x y1 x y2 budget s →
      validPoint x y1 = true → validPoint x y2 = true → y2.toNat = (modN - y1.toNat) % modN →
      exec .ecadd s = .next (afterReturn 0x30 0 0 s))
    ∧ ∀ (x y1 y2 : Word) (budget : Budget), y1.toNat < modN → y2.toNat = (modN - y1.toNat) % modN →
        ecaddBothValid x y1 x y2 budget = .ok 0 0

/-- R177: the defensive step 5. Its condition on words below `N`, and the failure it raises once validation is
bypassed. -/
def Obligations.StepFiveBranch : Prop :=
  ∀ (x1 y1 x2 y2 : Word) (budget : Budget),
    (unrelatedPoints x1 y1 x2 y2 = true
        ↔ x1 = x2 ∧ y1 ≠ y2 ∧ (y1.toNat : Int) ≠ ((modN : Int) - (y2.toNat : Int)) % (modN : Int))
      ∧ (y1.toNat < modN → y2.toNat < modN → unrelatedPoints x1 y1 x2 y2 = true →
          ecaddBothValid x1 y1 x2 y2 budget = .fail .invalidSameXDifferentY budget)

/-- The spec's own inference R182: step 5 never fires on the complete command. -/
def Obligations.StepFiveNeverFires : Prop :=
  ∀ (x1 y1 x2 y2 : Word) (sampled amount : Budget),
    ecadd x1 y1 x2 y2 sampled ≠ .fail .invalidSameXDifferentY amount

/-- R178 with the spec's own inference R183: the doubling of a valid point, with the slope `3*x^2 / (2*y)`. -/
def Obligations.EcaddDoubles : Prop :=
  ∀ (s : State) (x y : Word) (budget : Budget), holdsPoints x y x y budget s → validPoint x y = true →
    ∃ (x3 y3 : Word) (lam : Nat), exec .ecadd s = .next (afterReturn 0x30 x3 y3 s)
      ∧ x3.toNat < modN ∧ y3.toNat < modN ∧ lam < modN
      ∧ lam * (2 * y.toNat) % modN = 3 * x.toNat ^ 2 % modN
      ∧ (x3.toNat : Int) = ((lam : Int) ^ 2 - 2 * x.toNat) % (modN : Int)
      ∧ (y3.toNat : Int) = ((lam : Int) * (x.toNat - x3.toNat) - y.toNat) % (modN : Int)

/-- R179 with the spec's own inference R184: the sum of two valid points with different `x`, with the slope `(y2 - y1)
/ (x2 - x1)`. -/
def Obligations.EcaddAdds : Prop :=
  ∀ (s : State) (x1 y1 x2 y2 : Word) (budget : Budget), holdsPoints x1 y1 x2 y2 budget s →
    validPoint x1 y1 = true → validPoint x2 y2 = true → x1 ≠ x2 →
    ∃ (x3 y3 : Word) (lam : Nat), exec .ecadd s = .next (afterReturn 0x30 x3 y3 s)
      ∧ x3.toNat < modN ∧ y3.toNat < modN ∧ lam < modN
      ∧ ((lam : Int) * (x2.toNat - x1.toNat)) % (modN : Int) = ((y2.toNat : Int) - y1.toNat) % (modN : Int)
      ∧ (x3.toNat : Int) = ((lam : Int) ^ 2 - x1.toNat - x2.toNat) % (modN : Int)
      ∧ (y3.toNat : Int) = ((lam : Int) * (x1.toNat - x3.toNat) - y1.toNat) % (modN : Int)

/-- The spec's own inference R186: ECADD always completes: for every four words and every budget the command ends, in
a result or a failure. -/
def Obligations.EcaddNeverHangs : Prop :=
  ∀ (s : State) (x1 y1 x2 y2 : Word) (budget : Budget), holdsPoints x1 y1 x2 y2 budget s →
    (∃ q0 q1, exec .ecadd s = .next (afterReturn 0x30 q0 q1 s))
      ∨ ∃ kind, exec .ecadd s = .next (afterFailure kind budget s)

/-- The spec's own inference R187: the order of the two points does not matter. -/
def Obligations.EcaddSymmetric : Prop :=
  ∀ (x1 y1 x2 y2 : Word) (sampled : Budget),
    (∃ q0 q1, ecadd x1 y1 x2 y2 sampled = .ok q0 q1 ∧ ecadd x2 y2 x1 y1 sampled = .ok q0 q1)
      ∨ ∃ k k', ecadd x1 y1 x2 y2 sampled = .fail k sampled ∧ ecadd x2 y2 x1 y1 sampled = .fail k' sampled

/-- R180 with the spec's own inference R185: both words of every successful result are below `N`, and the output
window then has its 64 bytes. -/
def Obligations.EcaddResultsAreReduced : Prop :=
  ∀ (s t : State) (q0 q1 : Word), runEnded s → exec .ecadd s = .next t → t.q0 = some q0 → t.q1 = some q1 →
    q0.toNat < modN ∧ q1.toNat < modN ∧ outWindow t = some (wordBytes q0 ++ wordBytes q1)
      ∧ (wordBytes q0 ++ wordBytes q1).length = 64

/-- R185 leaves it to the curve's group law ("a property of the curve's group law and is not asserted by the
hardware"): every successful result is the infinity encoding or again a valid point. -/
def Obligations.EcaddResultIsAPoint : Prop :=
  ∀ (s t : State) (q0 q1 : Word), runEnded s → exec .ecadd s = .next t → t.q0 = some q0 → t.q1 = some q1 →
    (q0 = 0 ∧ q1 = 0) ∨ validPoint q0 q1 = true

/-- R180, R203: after the failure path there are no output bytes. -/
def Obligations.NoOutputBytesOnFailure : Prop :=
  ∀ s t : State, Consistent s → exec .ecadd s = .next t → t.status.abort = true → outWindow t = none

/-- R188: the identity and the inverse of the group, for every valid point `(x, y)`. -/
def Obligations.IdentityAndInverse : Prop :=
  ∀ (x y : Word) (sampled : Budget), validPoint x y = true →
    ecadd 0 0 x y sampled = .ok x y ∧ ecadd x y 0 0 sampled = .ok x y
      ∧ ecadd x y x (BitVec.ofNat 256 (modN - y.toNat)) sampled = .ok 0 0
end

