-- ==== Sys2Proof/Laws/Consts.lean ====
section
/-! SUPPORT. The constant store against its definitions (00_scope.md rules R7, R9, R10). -/

namespace Sys2Proof.Machine

theorem constN_toNat : constN.toNat = modN := by decide +kernel

theorem wordModN_toNat (x : Nat) : (wordModN x).toNat = x % modN := by
  have h : x % modN < 2 ^ 256 := Nat.lt_trans (Nat.mod_lt _ (by decide)) (by decide +kernel)
  rw [wordModN, BitVec.toNat_ofNat, Nat.mod_eq_of_lt h]

theorem montOne_toNat : montOne.toNat = W % modN := by decide +kernel

theorem constR2_toNat : constR2.toNat = montOne.toNat * montOne.toNat % modN := by decide +kernel

theorem constR3_toNat : constR3.toNat = constR2.toNat * montOne.toNat % modN := by decide +kernel

/-- `NPRIME = -N^(-1) mod 2^256` (R9). -/
theorem constNPrime_spec : (modN * constNPrime.toNat + 1) % W = 0 := by decide +kernel

/-- `RINV = R^(-1) mod N` (R9). -/
theorem modRInv_spec : W * modRInv % modN = 1 := by decide +kernel

theorem modRInv_lt : modRInv < modN := by decide +kernel

/-- `2^253 < N < 2^254` (R7). -/
theorem modN_bounds : 2 ^ 253 < modN ∧ modN < 2 ^ 254 := by decide +kernel

theorem modN_odd : modN % 2 = 1 := by decide +kernel

theorem modN_mod_three : modN % 3 = 1 := by decide +kernel

/-- `SPARE = true` (R10). -/
theorem spareBit_true : spareBit = true := by decide +kernel

end Sys2Proof.Machine
end

