-- ==== Sys2Proof/Laws/State.lean ====
section
/-! SUPPORT. For each update of the state, what each field holds after it: one lemma per field, true by `rfl`. -/

namespace Sys2Proof.Machine

@[simp] theorem startCommand_a0 (code : Byte) (s : State) : (startCommand code s).a0 = s.a0 := rfl
@[simp] theorem startCommand_a1 (code : Byte) (s : State) : (startCommand code s).a1 = s.a1 := rfl
@[simp] theorem startCommand_a2 (code : Byte) (s : State) : (startCommand code s).a2 = s.a2 := rfl
@[simp] theorem startCommand_a3 (code : Byte) (s : State) : (startCommand code s).a3 = s.a3 := rfl
@[simp] theorem startCommand_q0 (code : Byte) (s : State) : (startCommand code s).q0 = none := rfl
@[simp] theorem startCommand_q1 (code : Byte) (s : State) : (startCommand code s).q1 = none := rfl
@[simp] theorem startCommand_cmd (code : Byte) (s : State) : (startCommand code s).cmd = code := rfl
@[simp] theorem startCommand_status (code : Byte) (s : State) : (startCommand code s).status = statusStarted := rfl
@[simp] theorem startCommand_budget (code : Byte) (s : State) : (startCommand code s).budget = s.budget := rfl
@[simp] theorem startCommand_burnAmt (code : Byte) (s : State) : (startCommand code s).burnAmt = none := rfl
@[simp] theorem startCommand_trace (code : Byte) (s : State) : (startCommand code s).trace = s.trace := rfl
@[simp] theorem startCommand_script (code : Byte) (s : State) : (startCommand code s).script = s.script := rfl
@[simp] theorem startCommand_line (code : Byte) (s : State) : (startCommand code s).line = s.line := rfl
@[simp] theorem startCommand_reads (code : Byte) (s : State) : (startCommand code s).reads = s.reads := rfl

@[simp] theorem returnResult_a0 (code : Byte) (x y : Word) (s : State) : (returnResult code x y s).a0 = s.a0 := rfl
@[simp] theorem returnResult_a1 (code : Byte) (x y : Word) (s : State) : (returnResult code x y s).a1 = s.a1 := rfl
@[simp] theorem returnResult_a2 (code : Byte) (x y : Word) (s : State) : (returnResult code x y s).a2 = s.a2 := rfl
@[simp] theorem returnResult_a3 (code : Byte) (x y : Word) (s : State) : (returnResult code x y s).a3 = s.a3 := rfl
@[simp] theorem returnResult_q0 (code : Byte) (x y : Word) (s : State) : (returnResult code x y s).q0 = some x := rfl
@[simp] theorem returnResult_q1 (code : Byte) (x y : Word) (s : State) : (returnResult code x y s).q1 = some y := rfl
@[simp] theorem returnResult_cmd (code : Byte) (x y : Word) (s : State) : (returnResult code x y s).cmd = s.cmd := rfl
@[simp] theorem returnResult_status (code : Byte) (x y : Word) (s : State) :
    (returnResult code x y s).status = statusSucceeded s.status := rfl
@[simp] theorem returnResult_budget (code : Byte) (x y : Word) (s : State) :
    (returnResult code x y s).budget = s.budget := rfl
@[simp] theorem returnResult_burnAmt (code : Byte) (x y : Word) (s : State) :
    (returnResult code x y s).burnAmt = s.burnAmt := rfl
@[simp] theorem returnResult_trace (code : Byte) (x y : Word) (s : State) :
    (returnResult code x y s).trace = s.trace ++ [.returned code x y] := rfl
@[simp] theorem returnResult_script (code : Byte) (x y : Word) (s : State) :
    (returnResult code x y s).script = s.script := rfl
@[simp] theorem returnResult_line (code : Byte) (x y : Word) (s : State) :
    (returnResult code x y s).line = s.line := rfl
@[simp] theorem returnResult_reads (code : Byte) (x y : Word) (s : State) :
    (returnResult code x y s).reads = s.reads := rfl

@[simp] theorem failurePath_a0 (code : Byte) (kind : ErrorKind) (amount : Budget) (s : State) :
    (failurePath code kind amount s).a0 = s.a0 := rfl
@[simp] theorem failurePath_a1 (code : Byte) (kind : ErrorKind) (amount : Budget) (s : State) :
    (failurePath code kind amount s).a1 = s.a1 := rfl
@[simp] theorem failurePath_a2 (code : Byte) (kind : ErrorKind) (amount : Budget) (s : State) :
    (failurePath code kind amount s).a2 = s.a2 := rfl
@[simp] theorem failurePath_a3 (code : Byte) (kind : ErrorKind) (amount : Budget) (s : State) :
    (failurePath code kind amount s).a3 = s.a3 := rfl
@[simp] theorem failurePath_q0 (code : Byte) (kind : ErrorKind) (amount : Budget) (s : State) :
    (failurePath code kind amount s).q0 = s.q0 := rfl
@[simp] theorem failurePath_q1 (code : Byte) (kind : ErrorKind) (amount : Budget) (s : State) :
    (failurePath code kind amount s).q1 = s.q1 := rfl
@[simp] theorem failurePath_cmd (code : Byte) (kind : ErrorKind) (amount : Budget) (s : State) :
    (failurePath code kind amount s).cmd = s.cmd := rfl
@[simp] theorem failurePath_status (code : Byte) (kind : ErrorKind) (amount : Budget) (s : State) :
    (failurePath code kind amount s).status = statusAborted s.status := rfl
@[simp] theorem failurePath_budget (code : Byte) (kind : ErrorKind) (amount : Budget) (s : State) :
    (failurePath code kind amount s).budget = s.budget := rfl
@[simp] theorem failurePath_burnAmt (code : Byte) (kind : ErrorKind) (amount : Budget) (s : State) :
    (failurePath code kind amount s).burnAmt = some amount := rfl
@[simp] theorem failurePath_trace (code : Byte) (kind : ErrorKind) (amount : Budget) (s : State) :
    (failurePath code kind amount s).trace = s.trace ++ [.burn burnDescriptor amount, .aborted code kind] := rfl
@[simp] theorem failurePath_script (code : Byte) (kind : ErrorKind) (amount : Budget) (s : State) :
    (failurePath code kind amount s).script = s.script := rfl
@[simp] theorem failurePath_line (code : Byte) (kind : ErrorKind) (amount : Budget) (s : State) :
    (failurePath code kind amount s).line = s.line := rfl
@[simp] theorem failurePath_reads (code : Byte) (kind : ErrorKind) (amount : Budget) (s : State) :
    (failurePath code kind amount s).reads = s.reads := rfl

@[simp] theorem rejectCode_a0 (code : Byte) (s : State) : (rejectCode code s).a0 = s.a0 := rfl
@[simp] theorem rejectCode_a1 (code : Byte) (s : State) : (rejectCode code s).a1 = s.a1 := rfl
@[simp] theorem rejectCode_a2 (code : Byte) (s : State) : (rejectCode code s).a2 = s.a2 := rfl
@[simp] theorem rejectCode_a3 (code : Byte) (s : State) : (rejectCode code s).a3 = s.a3 := rfl
@[simp] theorem rejectCode_q0 (code : Byte) (s : State) : (rejectCode code s).q0 = s.q0 := rfl
@[simp] theorem rejectCode_q1 (code : Byte) (s : State) : (rejectCode code s).q1 = s.q1 := rfl
@[simp] theorem rejectCode_cmd (code : Byte) (s : State) : (rejectCode code s).cmd = s.cmd := rfl
@[simp] theorem rejectCode_status (code : Byte) (s : State) :
    (rejectCode code s).status = statusIllegal s.status := rfl
@[simp] theorem rejectCode_budget (code : Byte) (s : State) : (rejectCode code s).budget = s.budget := rfl
@[simp] theorem rejectCode_burnAmt (code : Byte) (s : State) : (rejectCode code s).burnAmt = s.burnAmt := rfl
@[simp] theorem rejectCode_trace (code : Byte) (s : State) :
    (rejectCode code s).trace = s.trace ++ [.rejected code] := rfl
@[simp] theorem rejectCode_script (code : Byte) (s : State) : (rejectCode code s).script = s.script := rfl
@[simp] theorem rejectCode_line (code : Byte) (s : State) : (rejectCode code s).line = s.line := rfl
@[simp] theorem rejectCode_reads (code : Byte) (s : State) : (rejectCode code s).reads = s.reads := rfl

@[simp] theorem resetEvent_a0 (s : State) : (resetEvent s).a0 = none := rfl
@[simp] theorem resetEvent_a1 (s : State) : (resetEvent s).a1 = none := rfl
@[simp] theorem resetEvent_a2 (s : State) : (resetEvent s).a2 = none := rfl
@[simp] theorem resetEvent_a3 (s : State) : (resetEvent s).a3 = none := rfl
@[simp] theorem resetEvent_q0 (s : State) : (resetEvent s).q0 = none := rfl
@[simp] theorem resetEvent_q1 (s : State) : (resetEvent s).q1 = none := rfl
@[simp] theorem resetEvent_cmd (s : State) : (resetEvent s).cmd = 0x00 := rfl
@[simp] theorem resetEvent_status (s : State) : (resetEvent s).status = Status.reset := rfl
@[simp] theorem resetEvent_budget (s : State) : (resetEvent s).budget = none := rfl
@[simp] theorem resetEvent_burnAmt (s : State) : (resetEvent s).burnAmt = none := rfl
@[simp] theorem resetEvent_trace (s : State) : (resetEvent s).trace = [] := rfl
@[simp] theorem resetEvent_script (s : State) : (resetEvent s).script = s.script := rfl
@[simp] theorem resetEvent_line (s : State) : (resetEvent s).line = s.line := rfl
@[simp] theorem resetEvent_reads (s : State) : (resetEvent s).reads = s.reads := rfl

@[simp] theorem recordRead_a0 (index : RegIndex) (v : Nat) (s : State) : (recordRead index v s).a0 = s.a0 := rfl
@[simp] theorem recordRead_a1 (index : RegIndex) (v : Nat) (s : State) : (recordRead index v s).a1 = s.a1 := rfl
@[simp] theorem recordRead_a2 (index : RegIndex) (v : Nat) (s : State) : (recordRead index v s).a2 = s.a2 := rfl
@[simp] theorem recordRead_a3 (index : RegIndex) (v : Nat) (s : State) : (recordRead index v s).a3 = s.a3 := rfl
@[simp] theorem recordRead_q0 (index : RegIndex) (v : Nat) (s : State) : (recordRead index v s).q0 = s.q0 := rfl
@[simp] theorem recordRead_q1 (index : RegIndex) (v : Nat) (s : State) : (recordRead index v s).q1 = s.q1 := rfl
@[simp] theorem recordRead_cmd (index : RegIndex) (v : Nat) (s : State) : (recordRead index v s).cmd = s.cmd := rfl
@[simp] theorem recordRead_status (index : RegIndex) (v : Nat) (s : State) :
    (recordRead index v s).status = s.status := rfl
@[simp] theorem recordRead_budget (index : RegIndex) (v : Nat) (s : State) :
    (recordRead index v s).budget = s.budget := rfl
@[simp] theorem recordRead_burnAmt (index : RegIndex) (v : Nat) (s : State) :
    (recordRead index v s).burnAmt = s.burnAmt := rfl
@[simp] theorem recordRead_trace (index : RegIndex) (v : Nat) (s : State) :
    (recordRead index v s).trace = s.trace := rfl
@[simp] theorem recordRead_script (index : RegIndex) (v : Nat) (s : State) :
    (recordRead index v s).script = s.script := rfl
@[simp] theorem recordRead_line (index : RegIndex) (v : Nat) (s : State) : (recordRead index v s).line = s.line := rfl
@[simp] theorem recordRead_reads (index : RegIndex) (v : Nat) (s : State) :
    (recordRead index v s).reads = s.reads ++ [⟨index, v⟩] := rfl

@[simp] theorem nextLine_a0 (s : State) : (nextLine s).a0 = s.a0 := rfl
@[simp] theorem nextLine_a1 (s : State) : (nextLine s).a1 = s.a1 := rfl
@[simp] theorem nextLine_a2 (s : State) : (nextLine s).a2 = s.a2 := rfl
@[simp] theorem nextLine_a3 (s : State) : (nextLine s).a3 = s.a3 := rfl
@[simp] theorem nextLine_q0 (s : State) : (nextLine s).q0 = s.q0 := rfl
@[simp] theorem nextLine_q1 (s : State) : (nextLine s).q1 = s.q1 := rfl
@[simp] theorem nextLine_cmd (s : State) : (nextLine s).cmd = s.cmd := rfl
@[simp] theorem nextLine_status (s : State) : (nextLine s).status = s.status := rfl
@[simp] theorem nextLine_budget (s : State) : (nextLine s).budget = s.budget := rfl
@[simp] theorem nextLine_burnAmt (s : State) : (nextLine s).burnAmt = s.burnAmt := rfl
@[simp] theorem nextLine_trace (s : State) : (nextLine s).trace = s.trace := rfl
@[simp] theorem nextLine_script (s : State) : (nextLine s).script = s.script := rfl
@[simp] theorem nextLine_line (s : State) : (nextLine s).line = s.line + 1 := rfl
@[simp] theorem nextLine_reads (s : State) : (nextLine s).reads = s.reads := rfl

@[simp] theorem statusSucceeded_phase (st : Status) : (statusSucceeded st).phase = .done := rfl
@[simp] theorem statusSucceeded_outv (st : Status) : (statusSucceeded st).outv = true := rfl
@[simp] theorem statusSucceeded_abort (st : Status) : (statusSucceeded st).abort = st.abort := rfl
@[simp] theorem statusSucceeded_burnReq (st : Status) : (statusSucceeded st).burnReq = st.burnReq := rfl
@[simp] theorem statusSucceeded_illCmd (st : Status) : (statusSucceeded st).illCmd = st.illCmd := rfl

@[simp] theorem statusAborted_phase (st : Status) : (statusAborted st).phase = .done := rfl
@[simp] theorem statusAborted_outv (st : Status) : (statusAborted st).outv = st.outv := rfl
@[simp] theorem statusAborted_abort (st : Status) : (statusAborted st).abort = true := rfl
@[simp] theorem statusAborted_burnReq (st : Status) : (statusAborted st).burnReq = true := rfl
@[simp] theorem statusAborted_illCmd (st : Status) : (statusAborted st).illCmd = st.illCmd := rfl

@[simp] theorem statusIllegal_phase (st : Status) : (statusIllegal st).phase = .done := rfl
@[simp] theorem statusIllegal_outv (st : Status) : (statusIllegal st).outv = st.outv := rfl
@[simp] theorem statusIllegal_abort (st : Status) : (statusIllegal st).abort = st.abort := rfl
@[simp] theorem statusIllegal_burnReq (st : Status) : (statusIllegal st).burnReq = st.burnReq := rfl
@[simp] theorem statusIllegal_illCmd (st : Status) : (statusIllegal st).illCmd = true := rfl

@[simp] theorem statusStarted_phase : statusStarted.phase = .busy := rfl
@[simp] theorem statusStarted_outv : statusStarted.outv = false := rfl
@[simp] theorem statusStarted_abort : statusStarted.abort = false := rfl
@[simp] theorem statusStarted_burnReq : statusStarted.burnReq = false := rfl
@[simp] theorem statusStarted_illCmd : statusStarted.illCmd = false := rfl

@[simp] theorem reset_phase : State.reset.status.phase = .idle := rfl

end Sys2Proof.Machine
end

