-- ==== Sys2Proof/Laws/Ops.lean ====
section
/-! SUPPORT. For each shared operation, once, everything it can do; later proofs cite these instead of unfolding it. -/

namespace Sys2Proof.Machine

/-! Sampling the operands (30_encoding.md rules R72, R80). -/

theorem sampleOne_of_held {f : Word → CommandOutcome} {s : State} {a : Word} (h0 : s.a0 = some a) :
    sampleOne f s = .ok (f a) := by
  simp [sampleOne, h0]

theorem sampleTwo_of_held {f : Word → Word → CommandOutcome} {s : State} {a b : Word} (h0 : s.a0 = some a)
    (h1 : s.a1 = some b) : sampleTwo f s = .ok (f a b) := by
  simp [sampleTwo, h0, h1]

theorem samplePoints_of_held {f : Word → Word → Word → Word → Budget → CommandOutcome} {s : State}
    {x1 y1 x2 y2 : Word} {budget : Budget} (h0 : s.a0 = some x1) (h1 : s.a1 = some y1) (h2 : s.a2 = some x2)
    (h3 : s.a3 = some y2) (hb : s.budget = some budget) :
    samplePoints f s = .ok (f x1 y1 x2 y2 budget) := by
  simp [samplePoints, h0, h1, h2, h3, hb]

theorem sampleOne_cases (f : Word → CommandOutcome) (s : State) :
    (∃ a, s.a0 = some a ∧ sampleOne f s = .ok (f a))
      ∨ (s.a0 = none ∧ sampleOne f s = .error (.operandHoldsNoValue .a0)) := by
  cases h0 : s.a0 <;> simp [sampleOne, h0]

theorem sampleTwo_cases (f : Word → Word → CommandOutcome) (s : State) :
    (∃ a b, s.a0 = some a ∧ s.a1 = some b ∧ sampleTwo f s = .ok (f a b))
      ∨ (s.a0 = none ∧ sampleTwo f s = .error (.operandHoldsNoValue .a0))
      ∨ (s.a1 = none ∧ sampleTwo f s = .error (.operandHoldsNoValue .a1)) := by
  cases h0 : s.a0 <;> cases h1 : s.a1 <;> simp [sampleTwo, h0, h1]

theorem samplePoints_cases (f : Word → Word → Word → Word → Budget → CommandOutcome) (s : State) :
    (∃ x1 y1 x2 y2 budget, s.a0 = some x1 ∧ s.a1 = some y1 ∧ s.a2 = some x2 ∧ s.a3 = some y2
        ∧ s.budget = some budget ∧ samplePoints f s = .ok (f x1 y1 x2 y2 budget))
      ∨ (s.a0 = none ∧ samplePoints f s = .error (.operandHoldsNoValue .a0))
      ∨ (s.a1 = none ∧ samplePoints f s = .error (.operandHoldsNoValue .a1))
      ∨ (s.a2 = none ∧ samplePoints f s = .error (.operandHoldsNoValue .a2))
      ∨ (s.a3 = none ∧ samplePoints f s = .error (.operandHoldsNoValue .a3))
      ∨ (s.budget = none ∧ samplePoints f s = .error (.operandHoldsNoValue .budget)) := by
  cases h0 : s.a0 <;> cases h1 : s.a1 <;> cases h2 : s.a2 <;> cases h3 : s.a3 <;> cases hb : s.budget <;>
    simp [samplePoints, h0, h1, h2, h3, hb]

/-! Completion and issue of a command (R80, R81). -/

theorem completeCommand_cases (code : Byte) (out : CommandOutcome) (s : State) :
    (∃ q0 q1, out = .ok q0 q1 ∧ completeCommand code out s = returnResult code q0 q1 s)
      ∨ (∃ kind amount, out = .fail kind amount ∧ completeCommand code out s = failurePath code kind amount s)
      ∨ (out = .illegal ∧ completeCommand code out s = rejectCode code s)
      ∨ (out = .diverge ∧ completeCommand code out s = s) := by
  cases out with
  | ok q0 q1 => exact .inl ⟨q0, q1, rfl, rfl⟩
  | fail kind amount => exact .inr (.inl ⟨kind, amount, rfl, rfl⟩)
  | illegal => exact .inr (.inr (.inl ⟨rfl, rfl⟩))
  | diverge => exact .inr (.inr (.inr ⟨rfl, rfl⟩))

theorem issueCommand_busy {i : Instr} {o : Except Refusal CommandOutcome} {s : State}
    (h : s.status.phase = .busy) : issueCommand i o s = .next s := by
  simp [issueCommand, h]

theorem issueCommand_ok {i : Instr} {out : CommandOutcome} {s : State} (h : s.status.phase ≠ .busy) :
    issueCommand i (.ok out) s = .next (completeCommand (instrCode i) out (startCommand (instrCode i) s)) := by
  simp [issueCommand, h]

theorem issueCommand_error {i : Instr} {r : Refusal} {s : State} (h : s.status.phase ≠ .busy) :
    issueCommand i (.error r) s = .refused r := by
  simp [issueCommand, h]

/-- Everything issuing a command can answer with a next state: it was dropped, or it started and completed. -/
theorem issueCommand_next_cases {i : Instr} {o : Except Refusal CommandOutcome} {s t : State}
    (h : issueCommand i o s = .next t) :
    (s.status.phase = .busy ∧ t = s)
      ∨ (s.status.phase ≠ .busy ∧ ∃ out, o = .ok out
          ∧ t = completeCommand (instrCode i) out (startCommand (instrCode i) s)) := by
  unfold issueCommand at h
  split at h
  · next hb => exact .inl ⟨hb, by simpa using h.symm⟩
  · next hb =>
    split at h
    · cases h
    · exact .inr ⟨hb, _, rfl, by simpa using h.symm⟩

theorem issueCommand_refused_cases {i : Instr} {o : Except Refusal CommandOutcome} {s : State} {r : Refusal}
    (h : issueCommand i o s = .refused r) : s.status.phase ≠ .busy ∧ o = .error r := by
  unfold issueCommand at h
  split at h
  · cases h
  · next hb =>
    split at h
    · cases h; exact ⟨hb, rfl⟩
    · cases h

/-- Completion writes no operand register, no `BUDGET` and nothing of the host's (R26). -/
theorem completeCommand_frame (code : Byte) (out : CommandOutcome) (s : State) :
    (completeCommand code out s).a0 = s.a0 ∧ (completeCommand code out s).a1 = s.a1
      ∧ (completeCommand code out s).a2 = s.a2 ∧ (completeCommand code out s).a3 = s.a3
      ∧ (completeCommand code out s).budget = s.budget ∧ (completeCommand code out s).cmd = s.cmd
      ∧ (completeCommand code out s).script = s.script ∧ (completeCommand code out s).line = s.line
      ∧ (completeCommand code out s).reads = s.reads := by
  cases out <;> simp [completeCommand]

/-! Which arm of `exec` a command takes. -/

/-- Every command is the issue of its sampled outcome: the outcome as a function of the state. -/
def sampledOutcome (i : Instr) (s : State) : Except Refusal CommandOutcome :=
  match i with
  | .mulw => sampleTwo (fun a b => .ok (mulw a b).1 (mulw a b).2) s
  | .addmod => sampleTwo (fun a b => okWord (addmod a b)) s
  | .submod => sampleTwo (fun a b => okWord (submod a b)) s
  | .redc => sampleTwo (fun low high => okWord (redc low high)) s
  | .tomont => sampleOne (fun a => okWord (tomont ⟨a⟩).word) s
  | .frommont => sampleOne (fun m => okWord (frommont ⟨m⟩).word) s
  | .montmul => sampleTwo (fun a b => okWord (montmul ⟨a⟩ ⟨b⟩).word) s
  | .montexp => sampleTwo (fun base e => okWord (montexp ⟨base⟩ e).word) s
  | .montinv => sampleOne (fun a => okOrDiverge ((montinv ⟨a⟩).map Mont.word)) s
  | .montdiv => sampleTwo (fun x y => okOrDiverge ((montdiv ⟨x⟩ ⟨y⟩).map Mont.word)) s
  | .isinf => sampleTwo (fun x y => okBool (isinf x y)) s
  | .rangechk => sampleOne (fun v => okBool (rangechk v)) s
  | .oncurve => sampleTwo (fun x y => okBool (oncurve ⟨x⟩ ⟨y⟩)) s
  | .ecadd => samplePoints ecadd s

theorem exec_eq_issue (i : Instr) (s : State) : exec i s = issueCommand i (sampledOutcome i s) s := by
  cases i <;> rfl

/-! No command's function answers `Illegal`: that outcome belongs to the reserved codes (10_state.md rule R33). -/

theorem okOrDiverge_ne_illegal (q : Option Word) : okOrDiverge q ≠ .illegal := by
  cases q <;> simp [okOrDiverge, okWord]

theorem okPoint_ne_illegal (p : Option (Std × Std)) : okPoint p ≠ .illegal := by
  cases p <;> simp [okPoint]

theorem ecaddOnePoint_ne_illegal (x y : Word) (sampled : Budget) : ecaddOnePoint x y sampled ≠ .illegal := by
  simp only [ecaddOnePoint]
  split <;> simp

theorem ecaddBothValid_ne_illegal (x1 y1 x2 y2 : Word) (sampled : Budget) :
    ecaddBothValid x1 y1 x2 y2 sampled ≠ .illegal := by
  simp only [ecaddBothValid]
  (repeat' split) <;> simp [okPoint_ne_illegal]

theorem ecadd_ne_illegal (x1 y1 x2 y2 : Word) (sampled : Budget) : ecadd x1 y1 x2 y2 sampled ≠ .illegal := by
  simp only [ecadd]
  (repeat' split) <;> simp [ecaddOnePoint_ne_illegal, ecaddBothValid_ne_illegal]

theorem sampledOutcome_ne_illegal (i : Instr) (s : State) : sampledOutcome i s ≠ .ok .illegal := by
  cases i <;> simp only [sampledOutcome, sampleOne, sampleTwo, samplePoints] <;> (repeat' split) <;>
    simp [okWord, okBool, ecadd_ne_illegal, okOrDiverge_ne_illegal]

/-! A failure carries the sampled budget, and only ECADD fails (R33). -/

theorem okOrDiverge_ne_fail (q : Option Word) (kind : ErrorKind) (amount : Budget) :
    okOrDiverge q ≠ .fail kind amount := by
  cases q <;> simp [okOrDiverge, okWord]

theorem okPoint_ne_fail (p : Option (Std × Std)) (kind : ErrorKind) (amount : Budget) :
    okPoint p ≠ .fail kind amount := by
  cases p <;> simp [okPoint]

theorem ecaddOnePoint_fail_amount {x y : Word} {sampled amount : Budget} {kind : ErrorKind}
    (h : ecaddOnePoint x y sampled = .fail kind amount) : amount = sampled := by
  simp only [ecaddOnePoint] at h
  split at h <;> simp_all

theorem ecaddBothValid_fail_amount {x1 y1 x2 y2 : Word} {sampled amount : Budget} {kind : ErrorKind}
    (h : ecaddBothValid x1 y1 x2 y2 sampled = .fail kind amount) : amount = sampled := by
  simp only [ecaddBothValid] at h
  repeat' split at h
  all_goals simp_all [okPoint_ne_fail]

theorem ecadd_fail_amount {x1 y1 x2 y2 : Word} {sampled amount : Budget} {kind : ErrorKind}
    (h : ecadd x1 y1 x2 y2 sampled = .fail kind amount) : amount = sampled := by
  simp only [ecadd] at h
  repeat' split at h
  · simp at h
  · exact ecaddOnePoint_fail_amount h
  · exact ecaddOnePoint_fail_amount h
  · simp_all
  · exact ecaddBothValid_fail_amount h

theorem sampledOutcome_fail {i : Instr} {s : State} {kind : ErrorKind} {amount : Budget}
    (h : sampledOutcome i s = .ok (.fail kind amount)) : i = .ecadd := by
  cases i <;> simp only [sampledOutcome, sampleOne, sampleTwo, samplePoints] at h <;> (repeat' split at h) <;>
    simp_all [okWord, okBool, okOrDiverge_ne_fail]

/-! The host port (R51, R55). -/

theorem issueReserved_cases (code : Byte) (s : State) :
    (s.status.phase = .busy ∧ issueReserved code s = s)
      ∨ (s.status.phase ≠ .busy ∧ issueReserved code s = rejectCode code (startCommand code s)) := by
  unfold issueReserved
  split
  · next h => exact .inl ⟨h, rfl⟩
  · next h => exact .inr ⟨h, rfl⟩

/-- Everything a host write can do: it is dropped while BUSY, it issues a command or rejects a code, or it writes a
data register. -/
theorem hostWrite_cases (index : RegIndex) (data : Nat) (s : State) :
    (s.status.phase = .busy ∧ hostWrite index data s = .next s)
      ∨ (s.status.phase ≠ .busy ∧ regAt index = some .cmd
          ∧ hostWrite index data s = writeCmd (BitVec.ofNat 8 data) s)
      ∨ (s.status.phase ≠ .busy ∧ regAt index ≠ some .cmd
          ∧ hostWrite index data s = .next (writeData (regAt index) data s)) := by
  unfold hostWrite
  split
  · next h => exact .inl ⟨h, rfl⟩
  · next h =>
    split
    · next hc => exact .inr (.inl ⟨h, hc, rfl⟩)
    · next hc => exact .inr (.inr ⟨h, hc, rfl⟩)

/-- A write of a code issues its command or, for a reserved code, is rejected. -/
theorem writeCmd_cases (code : Byte) (s : State) :
    (∃ i, decodeCode code = some i ∧ writeCmd code s = exec i s)
      ∨ (decodeCode code = none ∧ writeCmd code s = .next (issueReserved code s)) := by
  cases h : decodeCode code <;> simp [writeCmd, decode, h]

/-- A data write leaves the status, the results, `CMD`, the trace and the host's side alone. -/
theorem writeData_frame (r : Option Reg) (data : Nat) (s : State) :
    (writeData r data s).status = s.status ∧ (writeData r data s).q0 = s.q0 ∧ (writeData r data s).q1 = s.q1
      ∧ (writeData r data s).cmd = s.cmd ∧ (writeData r data s).burnAmt = s.burnAmt
      ∧ (writeData r data s).trace = s.trace ∧ (writeData r data s).script = s.script
      ∧ (writeData r data s).line = s.line ∧ (writeData r data s).reads = s.reads := by
  unfold writeData
  split <;> simp

/-- A read that answers changes nothing but what the run has read. -/
theorem hostRead_next_cases {index : RegIndex} {s t : State} (h : hostRead index s = .next t) :
    ∃ v, readIndex index s = .ok v ∧ t = recordRead index v s := by
  unfold hostRead at h
  split at h
  · cases h
  · next v hv => exact ⟨v, hv, by simpa using h.symm⟩

theorem readIndex_status (s : State) :
    readIndex (regIndex .status) s = .ok (statusWord s.status).toNat := rfl

/-! The register index map (R51), index by index. -/

@[simp] theorem regAt_a0 : regAt 0 = some .a0 := rfl
@[simp] theorem regAt_a1 : regAt 1 = some .a1 := rfl
@[simp] theorem regAt_a2 : regAt 2 = some .a2 := rfl
@[simp] theorem regAt_a3 : regAt 3 = some .a3 := rfl
@[simp] theorem regAt_q0 : regAt 4 = some .q0 := rfl
@[simp] theorem regAt_q1 : regAt 5 = some .q1 := rfl
@[simp] theorem regAt_cmd : regAt 6 = some .cmd := rfl
@[simp] theorem regAt_status : regAt 7 = some .status := rfl
@[simp] theorem regAt_budget : regAt 8 = some .budget := rfl
@[simp] theorem regAt_burnAmt : regAt 9 = some .burnAmt := rfl

theorem regAt_reserved {index : RegIndex} (h : 10 ≤ index) : regAt index = none := by
  revert index; decide

/-- The indices whose writes are dropped: the read-only registers and the reserved ones. -/
theorem regAt_dropped {index : RegIndex} (h : index = 4 ∨ index = 5 ∨ index = 7 ∨ 9 ≤ index) :
    regAt index = some .q0 ∨ regAt index = some .q1 ∨ regAt index = some .status ∨ regAt index = some .burnAmt
      ∨ regAt index = none := by
  revert index; decide

@[simp] theorem regAt_regIndex (r : Reg) : regAt (regIndex r) = some r := by
  cases r <;> rfl

@[simp] theorem regIndex_status : regIndex .status = 7 := rfl
@[simp] theorem regIndex_cmd : regIndex .cmd = 6 := rfl

theorem regAt_operandIndex (i : Fin 4) :
    regAt (operandIndex i) = some (match i with | 0 => .a0 | 1 => .a1 | 2 => .a2 | 3 => .a3) := by
  revert i; decide

theorem regAt_resultIndex (j : Fin 2) : regAt (resultIndex j) = some (match j with | 0 => .q0 | 1 => .q1) := by
  revert j; decide

/-- What a host write does to a register other than `CMD` while no command runs. -/
theorem hostWrite_data {index : RegIndex} {data : Nat} {s : State} (h : s.status.phase ≠ .busy)
    (hc : regAt index ≠ some .cmd) : hostWrite index data s = .next (writeData (regAt index) data s) := by
  simp [hostWrite, h, hc]

/-- Everything a `MemRead` of the output window can answer (R53). -/
theorem memRead_cases (j : Fin 2) (s : State) :
    (∃ v, readIndex (resultIndex j) s = .ok v ∧ memRead j s = .ok (wordBytes (BitVec.ofNat 256 v)))
      ∨ ∃ r, readIndex (resultIndex j) s = .error r ∧ memRead j s = .error r := by
  cases h : readIndex (resultIndex j) s <;> simp [memRead, h]

theorem step_of_fetch {s : State} {l : HostLine} (h : fetchLine s = some l) : step s = runLine l s := by
  simp [step, h]

theorem step_at_end {s : State} (h : fetchLine s = none) : step s = .next s := by
  simp [step, h]

end Sys2Proof.Machine
end

