-- ==== Sys2Proof/Laws/PerInstr.lean ====
section
/-! SUPPORT. One lemma per constructor of `Instr`, for the statements about every command as a term. -/

namespace Sys2Proof.Laws.OneByteCode

/-- A command is well formed, its encoding is the one byte of its `unit` and `fn` fields (30_encoding.md rule R70), and
0x00 is not its code (R76). -/
def Statement (i : Instr) : Prop :=
  i.wellFormed = true
    ∧ ∃ code : Byte, encode i = [code] ∧ codeUnit code = instrUnit i ∧ codeFn code = instrFn i ∧ code ≠ 0x00

theorem mulw : Statement .mulw := ⟨rfl, 0x01, by decide⟩
theorem addmod : Statement .addmod := ⟨rfl, 0x02, by decide⟩
theorem submod : Statement .submod := ⟨rfl, 0x03, by decide⟩
theorem redc : Statement .redc := ⟨rfl, 0x04, by decide⟩
theorem tomont : Statement .tomont := ⟨rfl, 0x05, by decide⟩
theorem frommont : Statement .frommont := ⟨rfl, 0x06, by decide⟩
theorem montmul : Statement .montmul := ⟨rfl, 0x07, by decide⟩
theorem montexp : Statement .montexp := ⟨rfl, 0x08, by decide⟩
theorem montinv : Statement .montinv := ⟨rfl, 0x10, by decide⟩
theorem montdiv : Statement .montdiv := ⟨rfl, 0x11, by decide⟩
theorem isinf : Statement .isinf := ⟨rfl, 0x20, by decide⟩
theorem rangechk : Statement .rangechk := ⟨rfl, 0x21, by decide⟩
theorem oncurve : Statement .oncurve := ⟨rfl, 0x22, by decide⟩
theorem ecadd : Statement .ecadd := ⟨rfl, 0x30, by decide⟩

end Sys2Proof.Laws.OneByteCode
end

