-- ==== Sys2Proof/Laws/Prime.lean ====
section
/-! SUPPORT. The modulus of 00_scope.md rule R7 is prime: a Pratt certificate, checked by Lucas's test at each prime of
it. The rules about the inverse engine, the curve and the group law (R135 (c), R157, R182, R186) rest on this. -/

namespace Sys2Proof.Laws

/-- `acc * b ^ e` modulo `m` by repeated squaring, for `e < 2 ^ fuel`. -/
def powMod (m : ℕ) : ℕ → ℕ → ℕ → ℕ → ℕ
  | 0, _, _, acc => acc % m
  | fuel + 1, b, e, acc =>
    if e = 0 then acc % m else powMod m fuel (b * b % m) (e / 2) (if e % 2 = 1 then acc * b % m else acc)

theorem powMod_eq (m fuel b e acc : ℕ) (h : e < 2 ^ fuel) : powMod m fuel b e acc = acc * b ^ e % m := by
  induction fuel generalizing b e acc with
  | zero => simp_all [powMod]
  | succ fuel ih =>
    rw [powMod]
    split
    · simp_all
    · rw [ih _ _ _ (by omega)]
      have square : (b * b % m) ^ (e / 2) ≡ b ^ (2 * (e / 2)) [MOD m] := by
        rw [pow_mul, pow_two]
        exact (Nat.mod_modEq _ _).pow _
      split
      · next odd =>
        have he : b ^ e = b * b ^ (2 * (e / 2)) := by rw [← pow_succ']; congr 1; omega
        rw [he, ← mul_assoc]
        exact (Nat.mod_modEq _ _).mul square
      · next even =>
        have he : e = 2 * (e / 2) := by omega
        conv_rhs => rw [he]
        exact square.mul_left acc

/-- Lucas's primality test with the prime factors of `p - 1` listed, as a check that computes: `a` has order `p - 1`
modulo `p`. -/
def lucasCheck (p a : ℕ) (factors : List ℕ) : Bool :=
  decide (1 < p) && decide (p < 2 ^ 256) && p - 1 == factors.prod && powMod p 256 a (p - 1) 1 == 1
    && factors.all fun q => powMod p 256 a ((p - 1) / q) 1 != 1

theorem prime_of_lucasCheck (p a : ℕ) (factors : List ℕ) (hprime : ∀ q ∈ factors, q.Prime)
    (h : lucasCheck p a factors = true) : p.Prime := by
  simp only [lucasCheck, Bool.and_eq_true, decide_eq_true_eq, beq_iff_eq, List.all_eq_true, bne_iff_ne] at h
  obtain ⟨⟨⟨⟨hp, hlt⟩, hprod⟩, hone⟩, hne⟩ := h
  have cast : ∀ k ≤ p - 1, (a : ZMod p) ^ k = 1 ↔ powMod p 256 a k 1 = 1 := by
    intro k hk
    have h := ZMod.natCast_eq_natCast_iff' (a ^ k) 1 p
    rw [Nat.mod_eq_of_lt hp] at h
    rw [powMod_eq _ _ _ _ _ (by omega), one_mul]
    simpa using h
  refine lucas_primality p a ((cast _ le_rfl).2 hone) fun q hq hdvd h => ?_
  have hdvd' := hprod ▸ hdvd
  obtain ⟨r, hr, hqr⟩ := (Prime.dvd_prod_iff hq.prime).1 hdvd'
  have hqr : q = r := (Nat.prime_dvd_prime_iff_eq hq (hprime r hr)).1 hqr
  exact hne q (hqr ▸ hr) ((cast _ (Nat.div_le_self _ _)).1 h)

theorem prime_405928799 : Nat.Prime 405928799 :=
  prime_of_lucasCheck _ 22 [2, 11, 3691, 4999]
    (by simp only [List.forall_mem_cons]; norm_num)
    (by decide +kernel)

theorem prime_11465965001 : Nat.Prime 11465965001 :=
  prime_of_lucasCheck _ 3 [2, 2, 2, 5, 5, 5, 5, 7, 327599]
    (by simp only [List.forall_mem_cons]; norm_num)
    (by decide +kernel)

theorem prime_1853641 : Nat.Prime 1853641 :=
  prime_of_lucasCheck _ 17 [2, 2, 2, 3, 3, 5, 19, 271]
    (by simp only [List.forall_mem_cons]; norm_num)
    (by decide +kernel)

theorem prime_4562087 : Nat.Prime 4562087 :=
  prime_of_lucasCheck _ 5 [2, 17, 109, 1231]
    (by simp only [List.forall_mem_cons]; norm_num)
    (by decide +kernel)

theorem prime_173171039 : Nat.Prime 173171039 :=
  prime_of_lucasCheck _ 13 [2, 73, 89, 13327]
    (by simp only [List.forall_mem_cons]; norm_num)
    (by decide +kernel)

theorem prime_1263766531 : Nat.Prime 1263766531 :=
  prime_of_lucasCheck _ 10 [2, 3, 5, 13, 911, 3557]
    (by simp only [List.forall_mem_cons]; norm_num)
    (by decide +kernel)

theorem prime_35385462869 : Nat.Prime 35385462869 :=
  prime_of_lucasCheck _ 2 [2, 2, 7, 1263766531]
    (by simp only [List.forall_mem_cons, prime_1263766531]; norm_num)
    (by decide +kernel)

theorem prime_2480874801745591 : Nat.Prime 2480874801745591 :=
  prime_of_lucasCheck _ 6 [2, 3, 3, 5, 19, 41, 35385462869]
    (by simp only [List.forall_mem_cons, prime_35385462869]; norm_num)
    (by decide +kernel)

theorem prime_13427688667394608761327070753331941386769 : Nat.Prime 13427688667394608761327070753331941386769 :=
  prime_of_lucasCheck _ 17 [2, 2, 2, 2, 3, 7, 11, 1853641, 4562087, 173171039, 2480874801745591]
    (by simp only [List.forall_mem_cons, prime_1853641, prime_4562087, prime_173171039, prime_2480874801745591]; norm_num)
    (by decide +kernel)

/-- The modulus `N` is prime (R7). -/
theorem modN_prime : Nat.Prime Machine.modN :=
  prime_of_lucasCheck _ 3 [2, 3, 3, 13, 29, 67, 229, 311, 983, 11003, 405928799, 11465965001,
    13427688667394608761327070753331941386769]
    (by simp only [List.forall_mem_cons, prime_405928799, prime_11465965001, prime_13427688667394608761327070753331941386769]; norm_num)
    (by decide +kernel)

end Sys2Proof.Laws
end

