-- ==== Sys2Proof/Tests/Slice0.lean ====
section
/-! SUPPORT. The model's own tests: the checks of WellFormed refuse ill-formed terms; command bytes written out from
30_encoding.md rules R70, R71 decode to their commands; each command on one or two vectors of the spec
(95_test_vectors.md, or the rule named); single accesses of the host port (95_test_vectors.md section 2.8); and, for
each statement with hypotheses, a witness that meets them all. -/

namespace Sys2Proof.Tests

set_option Elab.async false

open Sys2Proof Sys2Proof.Machine

/-! WellFormed refuses: one ill-formed term for each check. -/

theorem test_wf_refuses_wide_operand : (Transaction.write 0 W).wellFormed = false := by decide +kernel
theorem test_wf_refuses_wide_code : (Transaction.write 6 256).wellFormed = false := by decide
theorem test_wf_refuses_wide_status : (Transaction.write 7 4294967296).wellFormed = false := by decide
theorem test_wf_takes_code : (Transaction.write 6 255).wellFormed = true := by decide
theorem test_wf_refuses_wide_line : scriptWellFormed [.wr 6 (.lit 256)] = false := by decide
theorem test_wf_refuses_label_twice : scriptWellFormed [.label 1, .halt, .label 1] = false := by decide
theorem test_wf_refuses_missing_label : scriptWellFormed [.ifset .outv 2, .label 1] = false := by decide
theorem test_wf_takes_script : scriptWellFormed [.command .isinf, .wait, .ifset .outv 1, .halt, .label 1] = true := by
  decide
theorem test_wf_refuses_wide_point : (PseudoLine.ldpt 0 W 0 0).wellFormed = false := by decide +kernel
theorem test_wf_refuses_short_input : (PseudoLine.ldin (List.replicate 127 0)).wellFormed = false := by decide +kernel

/-! Decoding: the bits of R70, `unit` in 7:4 and `fn` in 3:0, with the codes of R71. -/

theorem test_decode_mulw : decode [0b00000001] = .ok .mulw [] := by decide
theorem test_decode_addmod : decode [0b00000010] = .ok .addmod [] := by decide
theorem test_decode_submod : decode [0b00000011] = .ok .submod [] := by decide
theorem test_decode_redc : decode [0b00000100] = .ok .redc [] := by decide
theorem test_decode_tomont : decode [0b00000101] = .ok .tomont [] := by decide
theorem test_decode_frommont : decode [0b00000110] = .ok .frommont [] := by decide
theorem test_decode_montmul : decode [0b00000111] = .ok .montmul [] := by decide
theorem test_decode_montexp : decode [0b00001000] = .ok .montexp [] := by decide
theorem test_decode_montinv : decode [0b00010000] = .ok .montinv [] := by decide
theorem test_decode_montdiv : decode [0b00010001] = .ok .montdiv [] := by decide
theorem test_decode_isinf : decode [0b00100000] = .ok .isinf [] := by decide
theorem test_decode_rangechk : decode [0b00100001] = .ok .rangechk [] := by decide
theorem test_decode_oncurve : decode [0b00100010] = .ok .oncurve [] := by decide
theorem test_decode_ecadd : decode [0b00110000] = .ok .ecadd [] := by decide
theorem test_decode_keeps_rest : decode [0b00110000, 0xff] = .ok .ecadd [0xff] := by decide
theorem test_decode_zero_reserved : decode [0b00000000] = .rejected (.reserved 0x00) := by decide
theorem test_decode_unit4_reserved : decode [0b01000001] = .rejected (.reserved 0x41) := by decide
theorem test_decode_nothing : decode [] = .rejected .noByte := by decide
/-- R71, R75: 14 codes, 242 reserved. -/
theorem test_decode_reserved_count :
    ((List.range 256).filter fun n => (decodeCode (BitVec.ofNat 8 n)).isNone).length = 242 := by decide +kernel
theorem test_table_word : decodeTableWord 8 0x22 = some .oncurve ∧ decodeTableWord 8 0x09 = none := by decide

/-! Helpers: a core whose operand registers hold values, and what an outcome shows. -/

/-- A core with points in `A0` to `A3` and a budget, no command issued yet. -/
def loaded (x1 y1 x2 y2 : Word) : State :=
  { State.reset with a0 := some x1, a1 := some y1, a2 := some x2, a3 := some y2, budget := some 0 }

/-- A core whose host is about to run one line. -/
def running (l : HostLine) (s : State) : State := { s with script := [l] }

/-- A core that has hung in MONTINV (V10). -/
def hung : State := afterHang 0x10 (loaded 0 0 0 0)

/-- The result words of a next state. -/
def results (o : Host.Outcome State Fault Refusal) : Option (Word × Word) :=
  match o with
  | .next s => match s.q0, s.q1 with
    | some x, some y => some (x, y)
    | _, _ => none
  | _ => none

/-- `STATUS` of a next state. -/
def statusOf (o : Host.Outcome State Fault Refusal) : Option (BitVec 32) :=
  match o with
  | .next s => some (statusWord s.status)
  | _ => none

/-- The reason of a refusal. -/
def refusal (o : Host.Outcome State Fault Refusal) : Option Refusal :=
  match o with
  | .refused r => some r
  | _ => none

/-- The error kind an outcome's trace ends with. -/
def lastKind (o : Host.Outcome State Fault Refusal) : Option ErrorKind :=
  match o with
  | .next s => match s.trace.getLast? with
    | some (.aborted _ k) => some k
    | _ => none
  | _ => none

/-! The commands, on vectors of 95_test_vectors.md sections 2.2 to 2.7. -/

theorem test_mulw_largest : results (exec .mulw (loaded (-1) (-1) 0 0)) = some (1, -2) := by decide +kernel
theorem test_mulw_halves :
    results (exec .mulw (loaded constN constNPrime 0 0))
      = some (-1, 0x2e67157159e5c639cf63e9cfb74492d9eb2022850278edf8ed84884a014afa36) := by decide +kernel
theorem test_addmod_no_loss :
    results (exec .addmod (loaded (-1) (-1) 0 0))
      = some (0x1c14ef83340fbe5eccdd46def0f28c5814f1d651eb8e167ba6ba871b8b1e1b38, 0) := by decide +kernel
theorem test_addmod_wraps :
    results (exec .addmod (loaded 0x30644e72e131a029b85045b68181585d97816a916871ca8d3c208c16d87cfd46 1 0 0))
      = some (0, 0) := by decide +kernel
theorem test_submod_below_zero :
    results (exec .submod (loaded 0 1 0 0))
      = some (0x30644e72e131a029b85045b68181585d97816a916871ca8d3c208c16d87cfd46, 0) := by decide +kernel
theorem test_submod_large_subtrahend :
    results (exec .submod (loaded 0 (-1) 0 0))
      = some (0x2259d6b14729c0fa51e1a247090812318d087f6872aabf4f68c3488912edefab, 0) := by decide +kernel
theorem test_redc_largest :
    results (exec .redc
        (loaded (-1) 0x30644e72e131a029b85045b68181585d97816a916871ca8d3c208c16d87cfd46 0 0))
      = some (0x01fd3901874bd9efe8ec5be6ca3cc583ac61480c65f8dc944e9c03ccd7320310, 0) := by decide +kernel
/-- R100: outside the precondition the value is the literal, wrapping one. -/
theorem test_redc_outside :
    results (exec .redc (loaded 1 (-2) 0 0))
      = some (0x2e67157159e5c639cf63e9cfb74492d9eb2022850278edf8ed84884a014afa35, 0) := by decide +kernel
theorem test_tomont_reduces_first :
    results (exec .tomont (loaded (-1) 0 0 0))
      = some (0x2932762311e1f619998cc1461349922842ef987a46efc14b5bf044e46678ea33, 0) := by decide +kernel
theorem test_frommont_all_ones :
    results (exec .frommont (loaded (-1) 0 0 0))
      = some (0x01fd3901874bd9efe8ec5be6ca3cc583ac61480c65f8dc944e9c03ccd7320311, 0) := by decide +kernel
theorem test_montmul_two_three :
    results (exec .montmul
        (loaded 0x1c14ef83340fbe5eccdd46def0f28c5814f1d651eb8e167ba6ba871b8b1e1b3a
          0x2a1f6744ce179d8e334bea4e696bd2841f6ac17ae15521b97a17caa950ad28d7 0 0))
      = some (0x23da8016bafd9af2ae478ee651564caaa75418645a3878e5b80f093bc8dd5467, 0) := by decide +kernel
theorem test_montexp_ten :
    results (exec .montexp (loaded 0x1c14ef83340fbe5eccdd46def0f28c5814f1d651eb8e167ba6ba871b8b1e1b3a 10 0 0))
      = some (0x05800320dce9ed32e56cdd25a6092b951e880124f028f972b34bb09513349ca1, 0) := by decide +kernel
theorem test_montexp_top_bit :
    results (exec .montexp
        (loaded 0x15d0085520f5bbc347d8eb76d8dd067e9cdb2d3b64716da7e4b1c5ae034e46ca
          0x8000000000000000000000000000000000000000000000000000000000000000 0 0))
      = some (0x293db18736d7e97d83116247bad5680a5be901ebd2fe5fc4866afc4cae539dfb, 0) := by decide +kernel
theorem test_montinv_mont_two :
    results (exec .montinv (loaded 0x1c14ef83340fbe5eccdd46def0f28c5814f1d651eb8e167ba6ba871b8b1e1b3a 0 0 0))
      = some (0x1f37631a3d9cbfac8f5f7492fcfd4f44d0fd2add2f1c6ae587bee7d24f060572, 0) := by decide +kernel
/-- R137: a multiple of `N` hangs; `STATUS` reads 0x00000001 (V10). -/
theorem test_montinv_of_modulus_hangs : statusOf (exec .montinv (loaded constN 0 0 0)) = some 1 := by decide +kernel
theorem test_montdiv_six_by_three :
    results (exec .montdiv
        (loaded 0x23da8016bafd9af2ae478ee651564caaa75418645a3878e5b80f093bc8dd5467
          0x2a1f6744ce179d8e334bea4e696bd2841f6ac17ae15521b97a17caa950ad28d7 0 0))
      = some (0x1c14ef83340fbe5eccdd46def0f28c5814f1d651eb8e167ba6ba871b8b1e1b3a, 0) := by decide +kernel
theorem test_montdiv_by_zero_hangs : statusOf (exec .montdiv (loaded 1 0 0 0)) = some 1 := by decide +kernel
theorem test_isinf_zero : results (exec .isinf (loaded 0 0 0 0)) = some (1, 0) := by decide +kernel
theorem test_isinf_compares_raw : results (exec .isinf (loaded constN 0 0 0)) = some (0, 0) := by decide +kernel
theorem test_rangechk_below :
    results (exec .rangechk (loaded 0x30644e72e131a029b85045b68181585d97816a916871ca8d3c208c16d87cfd46 0 0 0))
      = some (1, 0) := by decide +kernel
theorem test_rangechk_strict : results (exec .rangechk (loaded constN 0 0 0)) = some (0, 0) := by decide +kernel
theorem test_oncurve_reduces :
    results (exec .oncurve (loaded 0x30644e72e131a029b85045b68181585d97816a916871ca8d3c208c16d87cfd48 2 0 0))
      = some (1, 0) := by decide +kernel
theorem test_oncurve_off : results (exec .oncurve (loaded 1 3 0 0)) = some (0, 0) := by decide +kernel
/-- R189: `2G`, through step 6. -/
theorem test_ecadd_doubles :
    results (exec .ecadd (loaded 1 2 1 2))
      = some (0x030644e72e131a029b85045b68181585d97816a916871ca8d3c208c16d87cfd3,
          0x15ed738c0e0a7c92e7845f96b2ae9c0a68a6a449e3538fc7ff3ebf7a5a18a2c4) := by decide +kernel
/-- Section 2.7: `2G + G = 3G`, through step 7. -/
theorem test_ecadd_adds :
    results (exec .ecadd
        (loaded 0x030644e72e131a029b85045b68181585d97816a916871ca8d3c208c16d87cfd3
          0x15ed738c0e0a7c92e7845f96b2ae9c0a68a6a449e3538fc7ff3ebf7a5a18a2c4 1 2))
      = some (0x0769bf9ac56bea3ff40232bcb1b6bd159315d84715b8e679f2d355961915abf0,
          0x2ab799bee0489429554fdb7c8d086475319e63b40b9c5b57cdf1ff3dd9fe2261) := by decide +kernel

/-! The port, the status and the script (95_test_vectors.md section 2.8). -/

theorem test_status_failed : statusOf (exec .ecadd (loaded 1 3 1 2)) = some 0x1a := by decide +kernel
/-- Section 2.7: the range checks come first although `P1` is off the curve. -/
theorem test_range_before_curve :
    lastKind (exec .ecadd (loaded 1 3 constN 2)) = some .coordinateOutOfRange := by decide +kernel
theorem test_reserved_code_status : statusOf (hostWrite 6 0x00 State.reset) = some 0x22 := by decide
theorem test_unheld_operand_refused :
    refusal (hostWrite 6 0x05 State.reset) = some (.operandHoldsNoValue .a0) := by decide
theorem test_unheld_budget_refused :
    refusal (exec .ecadd { loaded 1 2 1 2 with budget := none }) = some (.operandHoldsNoValue .budget) := by decide
theorem test_read_no_value_refused : refusal (hostRead 4 State.reset) = some (.readHoldsNoValue .q0) := by decide
theorem test_read_reserved_refused : refusal (hostRead 12 State.reset) = some (.readReservedIndex 12) := by decide
theorem test_result_register_is_read_only : hostWrite 4 5 (loaded 1 2 1 2) = .next (loaded 1 2 1 2) := rfl
theorem test_write_while_busy_dropped : hostWrite 0 5 hung = .next hung := rfl
theorem test_first_byte_is_most_significant : (wordBytes (0x80#256 <<< 248)).head? = some 0x80 := by decide +kernel
/-- R53: the output window's first half, for `Q0 = 7`. -/
theorem test_read_of_output_window :
    (memRead 0 (afterReturn 0x21 7 0 (loaded 9 0 0 0))).toOption.map (fun b => (b.length, b.getLast?))
      = some (32, some 7) := by decide +kernel

theorem test_fetch_word_runs :
    ∀ n ∈ [0x01, 0x02, 0x03, 0x04, 0x05, 0x06, 0x07, 0x08, 0x10, 0x11, 0x20, 0x21, 0x22, 0x30],
      statusOf (step (State.reset.withFetchWord 8 n)) = some 0x06 := by decide +kernel
theorem test_fetch_word_reserved : statusOf (step (State.reset.withFetchWord 8 0x31)) = some 0x22 := by decide

/-! Witnesses: for each statement with hypotheses, a state and operands that meet them together, one for each clause. -/

theorem witness_ResetEventFromAnyState : fetchLine (running .reset hung) = some .reset := rfl

theorem witness_CommandCodes : (0x00 : Byte) ∉ commandCodes ∧ (0x31 : Byte) ∉ commandCodes := by decide

theorem witness_DecodeEncodeAgree :
    Instr.ecadd.wellFormed = true ∧ decode [0x30, 0x00] = .ok .ecadd [0x00] := by decide

theorem witness_StepRunsDecodedCommand_write :
    fetchLine (running (.wr 6 (.lit 0x21)) (loaded 0 0 0 0)) = some (.wr (regIndex .cmd) (.lit 0x21))
      ∧ scriptValue (.lit 0x21) (running (.wr 6 (.lit 0x21)) (loaded 0 0 0 0)) = some (0x21 : Byte).toNat
      ∧ runEnded (running (.wr 6 (.lit 0x21)) (loaded 0 0 0 0))
      ∧ decode [0x21] = .ok .rangechk [] ∧ Instr.rangechk.wellFormed = true := by decide

theorem witness_StepRunsDecodedCommand_mnemonic :
    fetchLine (running (.command .isinf) (loaded 0 0 0 0)) = some (.command .isinf)
      ∧ runEnded (running (.command .isinf) (loaded 0 0 0 0)) := by decide

theorem witness_ScriptLinesAct_wr :
    fetchLine (running (.wr 8 (.lit 5)) State.reset) = some (.wr 8 (.lit 5))
      ∧ scriptValue (.lit 5) (running (.wr 8 (.lit 5)) State.reset) = some 5
      ∧ fetchLine (running (.wr 3 .lastRead) State.reset) = some (.wr 3 .lastRead)
      ∧ scriptValue .lastRead (running (.wr 3 .lastRead) State.reset) = none := by decide

theorem witness_ScriptLinesAct_rd_refused :
    fetchLine (running (.rd 15) State.reset) = some (.rd 15)
      ∧ readIndex 15 (running (.rd 15) State.reset) = .error (.readReservedIndex 15) := ⟨rfl, rfl⟩

theorem witness_ScriptLinesAct_rd :
    fetchLine (running (.rd 7) State.reset) = some (.rd 7) ∧ readIndex 7 (running (.rd 7) State.reset) = .ok 0 :=
  ⟨rfl, rfl⟩

theorem witness_ScriptLinesAct_wait_done :
    fetchLine (running .wait (afterReturn 0x21 1 0 (loaded 9 0 0 0))) = some .wait
      ∧ (running .wait (afterReturn 0x21 1 0 (loaded 9 0 0 0))).status.phase = .done := by decide

theorem witness_ScriptLinesAct_wait_not_done :
    fetchLine (running .wait hung) = some .wait ∧ (running .wait hung).status.phase ≠ .done := by decide

/-- A host that has read `STATUS = 0x06` and stands at `IFSET`. -/
def atIfset (field : StatusField) : State :=
  { State.reset with script := [.ifset field 1, .label 1], reads := [⟨7, 0x06⟩] }

theorem witness_ScriptLinesAct_ifset_taken :
    fetchLine (atIfset .outv) = some (.ifset .outv 1) ∧ lastStatusRead (atIfset .outv) = some 0x06
      ∧ fieldOf .outv 0x06 = 1 ∧ labelLine 1 (atIfset .outv).script = some 1 := by decide

theorem witness_ScriptLinesAct_ifset_not_taken :
    fetchLine (atIfset .abort) = some (.ifset .abort 1) ∧ lastStatusRead (atIfset .abort) = some 0x06
      ∧ fieldOf .abort 0x06 ≠ 1 := by decide

/-- `IFSET` before any read of `STATUS`, and to a label the script does not define. -/
theorem witness_ScriptLinesAct_ifset_refused :
    fetchLine (running (.ifset .outv 1) State.reset) = some (.ifset .outv 1)
      ∧ lastStatusRead (running (.ifset .outv 1) State.reset) = none
      ∧ labelLine 1 { atIfset .outv with script := [.ifset .outv 1] }.script = none
      ∧ fetchLine { atIfset .outv with script := [.ifset .outv 1] } = some (.ifset .outv 1)
      ∧ lastStatusRead { atIfset .outv with script := [.ifset .outv 1] } = some 0x06 ∧ fieldOf .outv 0x06 = 1 := by
  decide

theorem montinv_zero_hangs : montinv ⟨0#256⟩ = none := by decide +kernel

/-- `RUN` of a command that ends, and of one that hangs. -/
theorem witness_ScriptLinesAct_run :
    runEnded { loaded 0 0 0 0 with script := expandPseudo (.run .isinf) }
      ∧ exec .isinf { loaded 0 0 0 0 with script := expandPseudo (.run .isinf), line := 1 }
        = .next (afterReturn 0x20 1 0 { loaded 0 0 0 0 with script := expandPseudo (.run .isinf), line := 1 })
      ∧ exec .montinv { loaded 0 0 0 0 with script := expandPseudo (.run .montinv), line := 1 }
        = .next (afterHang 0x10 { loaded 0 0 0 0 with script := expandPseudo (.run .montinv), line := 1 }) :=
  ⟨by decide, rfl, by
    simp [exec, execMontinv, sampleOne, loaded, montinv_zero_hangs, okOrDiverge, issueCommand, completeCommand,
      startCommand, afterHang, statusStarted, State.reset, Status.reset, instrCode, instrUnit, instrFn]⟩

theorem witness_ScriptLinesAct_rest :
    fetchLine (running (.label 1) State.reset) = some (.label 1)
      ∧ fetchLine (running .halt State.reset) = some .halt ∧ fetchLine State.reset = none := by decide

/-- A host about to copy `Q1` to `A3` with `MOVQ`. -/
def atMovq : State := { afterReturn 0x01 7 8 (loaded 0 0 0 0) with script := expandPseudo (.movq 3 1) }

theorem witness_MovqCopiesResult :
    runEnded atMovq ∧ resultOf 1 atMovq = some 8
      ∧ atMovq.script[atMovq.line]? = (expandPseudo (.movq 3 1))[0]?
      ∧ atMovq.script[atMovq.line + 1]? = (expandPseudo (.movq 3 1))[1]? := by decide

/-- A failed ECADD: every register that can hold a value while `ABORT = 1` holds one. -/
def failed : State := afterFailure .pointNotOnCurve 0 (loaded 1 3 1 2)

theorem witness_RegisterIndexMap_writes : runEnded State.reset ∧ runEnded (loaded 1 2 1 2) := by decide

theorem witness_RegisterIndexMap_read_only :
    ((9 : RegIndex) = 4 ∨ (9 : RegIndex) = 5 ∨ (9 : RegIndex) = 7 ∨ (9 : RegIndex) ≤ 9) ∧ (10 : RegIndex) ≤ 15 := by
  decide

theorem witness_RegisterIndexMap_words :
    atMovq.a0 = some 0 ∧ atMovq.a1 = some 0 ∧ atMovq.a2 = some 0 ∧ atMovq.a3 = some 0 ∧ atMovq.q0 = some 7
      ∧ atMovq.q1 = some 8 := by decide

theorem witness_RegisterIndexMap_budgets : failed.budget = some 0 ∧ failed.burnAmt = some 0 := ⟨rfl, rfl⟩

theorem witness_ReadOfNoValueIsRefused :
    holdsValue .a0 State.reset = false ∧ holdsValue .q1 failed = false ∧ holdsValue .burnAmt atMovq = false := by
  decide

theorem witness_BusyDropsWrites : hung.status.phase = .busy := rfl

theorem witness_ReservedCodeRejected :
    runEnded failed ∧ (0x09 : Byte) ∉ commandCodes ∧ (0xff : Byte) ∉ commandCodes := by decide

theorem witness_ByteViewRoundTrip : 31 < 32 ∧ (List.replicate 32 (0xff : Byte)).length = 32 := by decide

/-- A host about to load the bytes of 95_test_vectors.md's first ECADD input. -/
def inputBytes : List Byte :=
  List.replicate 31 0 ++ 1 :: List.replicate 31 0 ++ 2 :: List.replicate 31 0 ++ 1 :: List.replicate 31 0 ++ [2]

theorem witness_ByteWindowAccesses_ldin :
    runEnded { State.reset with script := expandPseudo (.ldin inputBytes) } ∧ inputBytes.length = 128
      ∧ ∀ k, k < 4 → ({ State.reset with script := expandPseudo (.ldin inputBytes) } : State).script[0 + k]?
          = (expandPseudo (.ldin inputBytes))[k]? :=
  ⟨by decide, by decide +kernel, fun k _ => by simp⟩

/-- A host about to load two points, one coordinate at the top of its range. -/
def atLdpt : State :=
  { State.reset with script := expandPseudo (.ldpt (0 : Word).toNat (-1 : Word).toNat (1 : Word).toNat (2 : Word).toNat) }

theorem witness_ByteWindowAccesses_ldpt :
    runEnded atLdpt
      ∧ ∀ k, k < 4 → atLdpt.script[atLdpt.line + k]?
          = (expandPseudo (.ldpt (0 : Word).toNat (-1 : Word).toNat (1 : Word).toNat (2 : Word).toNat))[k]? :=
  ⟨by decide, fun k _ => by simp [atLdpt, State.reset]⟩

theorem witness_ByteWindowAccesses_mem :
    runEnded State.reset ∧ (List.replicate 32 (0xff : Byte)).length = 32 ∧ resultOf 0 atMovq = some 7
      ∧ resultOf 1 atMovq = some 8 ∧ resultOf 0 State.reset = none ∧ resultOf 1 State.reset = none := by decide

theorem witness_ByteWindowAccesses_stout :
    ({ atMovq with script := expandPseudo .stout } : State).q0 = some 7
      ∧ ({ atMovq with script := expandPseudo .stout } : State).q1 = some 8
      ∧ ({ atMovq with script := expandPseudo .stout } : State).script[0]? = (expandPseudo .stout)[0]?
      ∧ ({ atMovq with script := expandPseudo .stout } : State).script[0 + 1]? = (expandPseudo .stout)[1]? := by decide

/-- A core on which no command has been issued is consistent, whatever its operands and its script. -/
theorem idle_consistent {s : State} (hst : s.status = Status.reset) (hq0 : s.q0 = none) (hq1 : s.q1 = none)
    (hcmd : s.cmd = 0x00) (hb : s.burnAmt = none) (ht : s.trace = []) : Consistent s := by
  simp [Consistent, NothingShown, Status.reset, hst, hq0, hq1, hcmd, hb, ht]

theorem witness_StepKeepsConsistent :
    Consistent (running (.wr 6 (.lit 0)) State.reset)
      ∧ step (running (.wr 6 (.lit 0)) State.reset)
        = .next (afterRejection 0 { running (.wr 6 (.lit 0)) State.reset with line := 1 }) :=
  ⟨idle_consistent rfl rfl rfl rfl rfl rfl, rfl⟩

theorem witness_OnlyCommandsAndResetChangeThePhase_command :
    step (running (.wr 6 (.lit 0)) State.reset)
        = .next (afterRejection 0 { running (.wr 6 (.lit 0)) State.reset with line := 1 })
      ∧ (afterRejection 0 { running (.wr 6 (.lit 0)) State.reset with line := 1 }).status.phase
        ≠ (running (.wr 6 (.lit 0)) State.reset).status.phase :=
  ⟨rfl, by decide⟩

theorem witness_OnlyCommandsAndResetChangeThePhase_reset :
    step (running .reset hung) = .next { State.reset with script := [.reset], line := 1 }
      ∧ State.reset.status.phase ≠ (running .reset hung).status.phase := ⟨rfl, by decide⟩

theorem witness_HungCoreStaysHung :
    (running (.wr 0 (.lit 5)) hung).status.phase = .busy
      ∧ HostLine.reset ∉ (running (.wr 0 (.lit 5)) hung).script
      ∧ Sys2Proof.core.run 2 (running (.wr 0 (.lit 5)) hung)
        = .next { running (.wr 0 (.lit 5)) hung with line := 1 } := ⟨rfl, by decide, rfl⟩

theorem witness_CommandFrame :
    exec .isinf (loaded 0 0 0 0) = .next (afterReturn 0x20 1 0 (loaded 0 0 0 0)) := rfl

theorem witness_OutcomeDependsOnOperandsOnly :
    runEnded (loaded 0 0 0 0) ∧ runEnded (afterReturn 0x21 1 0 (loaded 0 0 0 0))
      ∧ (loaded 0 0 0 0).a0 = (afterReturn 0x21 1 0 (loaded 0 0 0 0)).a0
      ∧ (loaded 0 0 0 0).a1 = (afterReturn 0x21 1 0 (loaded 0 0 0 0)).a1
      ∧ (loaded 0 0 0 0).a2 = (afterReturn 0x21 1 0 (loaded 0 0 0 0)).a2
      ∧ (loaded 0 0 0 0).a3 = (afterReturn 0x21 1 0 (loaded 0 0 0 0)).a3
      ∧ (loaded 0 0 0 0).budget = (afterReturn 0x21 1 0 (loaded 0 0 0 0)).budget
      ∧ exec .isinf (loaded 0 0 0 0) = .next (afterReturn 0x20 1 0 (loaded 0 0 0 0)) :=
  ⟨by decide, by decide, rfl, rfl, rfl, rfl, rfl, rfl⟩

theorem witness_UnheldOperandRefuses :
    runEnded { loaded 1 2 1 2 with budget := none } ∧ Reg.budget ∈ operandBinding .ecadd
      ∧ holdsValue .budget { loaded 1 2 1 2 with budget := none } = false := by decide

theorem witness_HeldOperandsStart :
    runEnded (loaded 1 2 1 2) ∧ ∀ i ∈ [Instr.mulw, .tomont, .ecadd], ∀ r ∈ operandBinding i,
      holdsValue r (loaded 1 2 1 2) = true := by decide

theorem witness_ErrorKindIsInvisible :
    observe (afterFailure .pointNotOnCurve 0 (loaded 1 3 1 2))
        = observe (afterFailure .coordinateOutOfRange 0 (loaded 1 3 1 2))
      ∧ afterFailure .pointNotOnCurve 0 (loaded 1 3 1 2) ≠ afterFailure .coordinateOutOfRange 0 (loaded 1 3 1 2) :=
  ⟨rfl, fun h => by
    have h := congrArg (fun s => lastKind (.next s)) h
    revert h; decide⟩

/-- The hypotheses of the statements about a command with operands `A0`, `A1`: both held, at the ends of the range. -/
theorem witness_two_operands :
    runEnded (loaded 0 (-1) 0 0) ∧ (loaded 0 (-1) 0 0).a0 = some 0 ∧ (loaded 0 (-1) 0 0).a1 = some (-1) := by decide

theorem witness_MulwResult : runEnded (loaded (-1) (-1) 0 0) ∧ (loaded (-1) (-1) 0 0).a0 = some (-1)
    ∧ (loaded (-1) (-1) 0 0).a1 = some (-1) := by decide

theorem witness_AddmodResult : runEnded (loaded constN 0 0 0) ∧ (loaded constN 0 0 0).a0 = some constN
    ∧ (loaded constN 0 0 0).a1 = some 0 := by decide

theorem witness_SubmodResult : runEnded (loaded 0 constN 0 0) ∧ (loaded 0 constN 0 0).a0 = some 0
    ∧ (loaded 0 constN 0 0).a1 = some constN := by decide

theorem witness_RedcResult : runEnded (loaded 1 (-2) 0 0) ∧ (loaded 1 (-2) 0 0).a0 = some 1
    ∧ (loaded 1 (-2) 0 0).a1 = some (-2) := by decide

theorem witness_RedcContract : runEnded (loaded (-1) (constN - 1) 0 0)
    ∧ (loaded (-1) (constN - 1) 0 0).a0 = some (-1) ∧ (loaded (-1) (constN - 1) 0 0).a1 = some (constN - 1)
    ∧ (constN - 1).toNat < modN := by decide +kernel

theorem witness_RedcCarryFacts : (constN - 1).toNat < modN ∧ modN - 1 < modN := by decide +kernel

theorem witness_TomontResult : runEnded (loaded (-1) 0 0 0) ∧ (loaded (-1) 0 0 0).a0 = some (-1) := by decide

theorem witness_FrommontResult : runEnded (loaded constN 0 0 0) ∧ (loaded constN 0 0 0).a0 = some constN := by decide

theorem witness_MontgomeryRoundTrip : (0 : Word).toNat < modN ∧ (constN - 1).toNat < modN := by decide +kernel

theorem witness_MontmulResult : runEnded (loaded (constN - 1) (-1) 0 0)
    ∧ (loaded (constN - 1) (-1) 0 0).a0 = some (constN - 1) ∧ (loaded (constN - 1) (-1) 0 0).a1 = some (-1)
    ∧ (constN - 1).toNat * (-1 : Word).toNat < modN * W := by decide +kernel

theorem witness_MontgomeryAlgebra : (1 : Word).toNat < modN ∧ (0 : Word).toNat < modN
    ∧ montOne.toNat = montNat (1 : Word).toNat ∧ (0 : Word).toNat = montNat (0 : Word).toNat ∧ modN - 1 < modN := by
  decide +kernel

theorem witness_MontexpResult : runEnded (loaded (constN - 1) 0 0 0)
    ∧ (loaded (constN - 1) 0 0 0).a0 = some (constN - 1) ∧ (loaded (constN - 1) 0 0 0).a1 = some 0
    ∧ (constN - 1).toNat < modN := by decide +kernel

theorem witness_HalvingAnAccumulator : (0 : Word).toNat < modN ∧ (constN - 1).toNat < modN := by decide +kernel

/-- The start of `montinv(2)`: the loop test admits a pass, and the pass ends. -/
theorem witness_InverseLoopKeepsInvariant :
    (invLoad ⟨2⟩).u.toNat * constR2.toNat % modN = (invLoad ⟨2⟩).b.toNat * 2 % modN
      ∧ (invLoad ⟨2⟩).v.toNat * constR2.toNat % modN = (invLoad ⟨2⟩).c.toNat * 2 % modN
      ∧ (invLoad ⟨2⟩).b.toNat < modN ∧ (invLoad ⟨2⟩).c.toNat < modN
      ∧ Nat.gcd (invLoad ⟨2⟩).u.toNat (invLoad ⟨2⟩).v.toNat = Nat.gcd 2 modN
      ∧ 1 ≤ (invLoad ⟨2⟩).u.toNat ∧ 1 ≤ (invLoad ⟨2⟩).v.toNat
      ∧ invDone (invLoad ⟨2⟩) = false ∧ (invPass (invLoad ⟨2⟩)).isSome = true := by decide +kernel

theorem witness_InverseWithinItsBounds : 1 ≤ (1 : Word).toNat ∧ (1 : Word).toNat < modN
    ∧ 1 ≤ (constN - 1).toNat ∧ (constN - 1).toNat < modN ∧ (-1 : Word).toNat % modN ≠ 0 := by decide +kernel

theorem witness_MontinvResult : runEnded (loaded (constN - 1) 0 0 0)
    ∧ (loaded (constN - 1) 0 0 0).a0 = some (constN - 1) ∧ (constN - 1).toNat % modN ≠ 0
    ∧ stdNat (constN - 1).toNat < modN ∧ (constN - 1).toNat = montNat (stdNat (constN - 1).toNat) := by decide +kernel

theorem witness_InverseCorrectness : (1 : Word).toNat ≠ 0 ∧ (1 : Word).toNat < modN ∧ (constN - 1).toNat ≠ 0
    ∧ (constN - 1).toNat < modN := by decide +kernel

theorem witness_MontinvOfZeroHangs : runEnded (loaded constN 0 0 0) ∧ (loaded constN 0 0 0).a0 = some constN
    ∧ constN.toNat % modN = 0 := by decide +kernel

theorem witness_MontdivResult_quotient : runEnded (loaded 0 montOne 0 0) ∧ (loaded 0 montOne 0 0).a0 = some 0
    ∧ (loaded 0 montOne 0 0).a1 = some montOne ∧ montOne.toNat % modN ≠ 0
    ∧ 0 < modN ∧ 1 < modN ∧ (0 : Word).toNat = montNat 0 ∧ montOne.toNat = montNat 1 := by decide +kernel

theorem witness_MontdivResult_hangs : runEnded (loaded 1 0 0 0) ∧ (loaded 1 0 0 0).a0 = some 1
    ∧ (loaded 1 0 0 0).a1 = some 0 ∧ (0 : Word).toNat % modN = 0 := by decide +kernel

theorem witness_IsinfResult : runEnded (loaded 0 1 0 0) ∧ (loaded 0 1 0 0).a0 = some 0
    ∧ (loaded 0 1 0 0).a1 = some 1 := by decide

theorem witness_RangechkResult : runEnded (loaded constN 0 0 0) ∧ (loaded constN 0 0 0).a0 = some constN := by decide

theorem witness_OncurveResult : runEnded (loaded 1 2 0 0) ∧ (loaded 1 2 0 0).a0 = some 1
    ∧ (loaded 1 2 0 0).a1 = some 2 := by decide

theorem witness_ValidPointFacts : validPoint 1 2 = true ∧ validPoint 1 (constN - 2) = true := by decide +kernel

theorem loaded_holdsPoints (x1 y1 x2 y2 : Word) : holdsPoints x1 y1 x2 y2 0 (loaded x1 y1 x2 y2) :=
  ⟨Phase.noConfusion, rfl, rfl, rfl, rfl, rfl⟩

theorem witness_EcaddWithInfinity :
    holdsPoints 0 0 0 0 0 (loaded 0 0 0 0) ∧ holdsPoints 0 0 1 2 0 (loaded 0 0 1 2)
      ∧ holdsPoints 1 2 0 0 0 (loaded 1 2 0 0) ∧ validPoint 1 2 = true :=
  ⟨loaded_holdsPoints .., loaded_holdsPoints .., loaded_holdsPoints .., by decide +kernel⟩

/-- Step 3 with a coordinate equal to `N`, and with a point in range and off the curve. -/
theorem witness_EcaddFailurePath_step3 :
    holdsPoints constN 0 1 2 0 (loaded constN 0 1 2) ∧ modN ≤ constN.toNat ∧ (constN, (0 : Word)) ≠ (0, 0)
      ∧ holdsPoints 1 (constN - 1) 1 2 0 (loaded 1 (constN - 1) 1 2) ∧ (constN - 1).toNat < modN
      ∧ validPoint 1 (constN - 1) = false :=
  ⟨loaded_holdsPoints .., by decide +kernel, by decide, loaded_holdsPoints .., by decide +kernel, by decide +kernel⟩

/-- Step 2, either way round, with a coordinate equal to `N`, and with a point in range and off the curve. -/
theorem witness_EcaddFailurePath_step2 :
    holdsPoints 0 0 constN 2 0 (loaded 0 0 constN 2) ∧ holdsPoints constN 2 0 0 0 (loaded constN 2 0 0)
      ∧ modN ≤ constN.toNat ∧ (constN, (2 : Word)) ≠ (0, 0)
      ∧ holdsPoints 0 0 0 1 0 (loaded 0 0 0 1) ∧ holdsPoints 0 1 0 0 0 (loaded 0 1 0 0)
      ∧ (0 : Word).toNat < modN ∧ (1 : Word).toNat < modN ∧ validPoint 0 1 = false :=
  ⟨loaded_holdsPoints .., loaded_holdsPoints .., by decide +kernel, by decide, loaded_holdsPoints ..,
    loaded_holdsPoints .., by decide +kernel, by decide +kernel, by decide +kernel⟩

/-- The failing clause's premise, for the two kinds that can occur. -/
theorem witness_EcaddFailurePath_kinds :
    holdsPoints 1 3 1 2 0 (loaded 1 3 1 2) ∧ ecadd 1 3 1 2 0 = .fail .pointNotOnCurve 0
      ∧ holdsPoints 1 2 1 constN 0 (loaded 1 2 1 constN) ∧ ecadd 1 2 1 constN 0 = .fail .coordinateOutOfRange 0 :=
  ⟨loaded_holdsPoints .., rfl, loaded_holdsPoints .., rfl⟩

/-- Step 4 with both `y` zero. -/
theorem witness_EcaddOfOpposites_zero :
    (0 : Word).toNat < modN ∧ (0 : Word).toNat = (modN - (0 : Word).toNat) % modN := by decide +kernel

theorem witness_EcaddOfOpposites :
    holdsPoints 1 2 1 (constN - 2) 0 (loaded 1 2 1 (constN - 2)) ∧ validPoint 1 2 = true
      ∧ validPoint 1 (constN - 2) = true ∧ (constN - 2).toNat = (modN - (2 : Word).toNat) % modN :=
  ⟨loaded_holdsPoints .., by decide +kernel, by decide +kernel, by decide +kernel⟩

/-- Section 2.7: `c5(1, 2, 1, N - 1)` is true. -/
theorem witness_StepFiveBranch :
    (2 : Word).toNat < modN ∧ (constN - 1).toNat < modN ∧ unrelatedPoints 1 2 1 (constN - 1) = true := by
  decide +kernel

theorem witness_EcaddDoubles : holdsPoints 1 2 1 2 0 (loaded 1 2 1 2) ∧ validPoint 1 2 = true :=
  ⟨loaded_holdsPoints .., by decide +kernel⟩

/-- The point with `x = 2` of section 2.6, added to `G`. -/
theorem witness_EcaddAdds :
    holdsPoints 1 2 2 0x0ce2c194b86251806451ec04be095d60517130cff61fcb49c4ef4e708dac7f34 0
        (loaded 1 2 2 0x0ce2c194b86251806451ec04be095d60517130cff61fcb49c4ef4e708dac7f34)
      ∧ validPoint 1 2 = true
      ∧ validPoint 2 0x0ce2c194b86251806451ec04be095d60517130cff61fcb49c4ef4e708dac7f34 = true
      ∧ (1 : Word) ≠ 2 :=
  ⟨loaded_holdsPoints .., by decide +kernel, by decide +kernel, by decide⟩

theorem witness_EcaddNeverHangs :
    holdsPoints (-1) (-1) (-1) (-1) 0 (loaded (-1) (-1) (-1) (-1)) := loaded_holdsPoints ..

theorem witness_EcaddResultsAreReduced :
    runEnded (loaded 0 0 1 2)
      ∧ exec .ecadd (loaded 0 0 1 2) = .next (afterReturn 0x30 1 2 (loaded 0 0 1 2))
      ∧ (afterReturn 0x30 1 2 (loaded 0 0 1 2)).q0 = some 1 ∧ (afterReturn 0x30 1 2 (loaded 0 0 1 2)).q1 = some 2 :=
  ⟨by decide, rfl, rfl, rfl⟩

/-- Two finite points: 95_test_vectors.md section 2.7, `G + G`. -/
theorem witness_EcaddResultIsAPoint :
    runEnded (loaded 1 2 1 2) ∧ results (exec .ecadd (loaded 1 2 1 2))
      = some (0x030644e72e131a029b85045b68181585d97816a916871ca8d3c208c16d87cfd3,
          0x15ed738c0e0a7c92e7845f96b2ae9c0a68a6a449e3538fc7ff3ebf7a5a18a2c4) := by decide +kernel

theorem witness_NoOutputBytesOnFailure :
    Consistent (loaded 1 3 1 2)
      ∧ exec .ecadd (loaded 1 3 1 2) = .next (afterFailure .pointNotOnCurve 0 (loaded 1 3 1 2))
      ∧ (afterFailure .pointNotOnCurve 0 (loaded 1 3 1 2)).status.abort = true :=
  ⟨idle_consistent rfl rfl rfl rfl rfl rfl, rfl, rfl⟩

theorem witness_IdentityAndInverse : validPoint 1 2 = true := by decide +kernel

end Sys2Proof.Tests
end

/-! The byte view of a word (20_memory.md rule R52). A word is read as base-256 digits, the most significant first:
`wordBytes` takes the digits of a number below `256 ^ 32`, `bytesNat` evaluates them, and the two are inverse. -/

namespace Sys2Proof.Proofs

open Sys2Proof Sys2Proof.Machine

/-! The bytes of a word. -/

theorem byte_weight (k : Nat) : 2 ^ (8 * k) = 256 ^ k := pow_mul 2 8 k

theorem byteOf_toNat (v : Word) (j : Nat) : (byteOf v j).toNat = v.toNat / 256 ^ (31 - j) % 256 := by
  rw [byteOf, BitVec.extractLsb'_toNat, Nat.shiftRight_eq_div_pow, byte_weight]

@[simp] theorem wordBytes_length (v : Word) : (wordBytes v).length = 32 := by
  simp [wordBytes]

theorem wordBytes_getElem? (v : Word) {j : Nat} (hj : j < 32) : (wordBytes v)[j]? = some (byteOf v j) := by
  simp [wordBytes, hj]

/-! The number that bytes stand for. -/

@[simp] theorem bytesNat_nil : bytesNat [] = 0 := rfl

@[simp] theorem bytesNat_concat (bytes : List Byte) (b : Byte) :
    bytesNat (bytes ++ [b]) = bytesNat bytes * 256 + b.toNat := by
  simp [bytesNat]

theorem bytesNat_lt (bytes : List Byte) : bytesNat bytes < 256 ^ bytes.length := by
  induction bytes using List.reverseRecOn with
  | nil => simp
  | append_singleton bytes b ih =>
    have digit := b.isLt
    rw [bytesNat_concat, List.length_append, List.length_singleton, pow_succ]
    omega

/-- The weights of R52: each byte after `B[j]` multiplies the place of `B[j]` by 256. -/
theorem bytesNat_map_range (byte : Nat → Byte) (n : Nat) :
    bytesNat ((List.range n).map byte)
      = ((List.range n).map fun j => (byte j).toNat * 256 ^ (n - 1 - j)).sum := by
  induction n with
  | zero => simp
  | succ n ih =>
    have shift : ∀ j ∈ List.range n,
        (byte j).toNat * 256 ^ (n + 1 - 1 - j) = (byte j).toNat * 256 ^ (n - 1 - j) * 256 := by
      intro j hj
      have hj : j < n := List.mem_range.mp hj
      rw [mul_assoc, ← pow_succ, show n - 1 - j + 1 = n + 1 - 1 - j by omega]
    rw [List.range_succ, List.map_append, List.map_singleton, bytesNat_concat, ih, List.map_append,
      List.map_congr_left shift, List.sum_append, List.sum_map_mul_right]
    simp

/-- Byte `j` of a list of bytes is the base-256 digit of their number at its place. -/
theorem bytesNat_digit {bytes : List Byte} {j : Nat} (hj : j < bytes.length) :
    bytesNat bytes / 256 ^ (bytes.length - 1 - j) % 256 = bytes[j].toNat := by
  induction bytes using List.reverseRecOn with
  | nil => simp at hj
  | append_singleton bytes b ih =>
    have digit := b.isLt
    have drop_last : bytesNat (bytes ++ [b]) / 256 = bytesNat bytes := by
      rw [bytesNat_concat]
      omega
    rw [List.length_append, List.length_singleton] at hj ⊢
    obtain hlt | rfl := Nat.lt_succ_iff_lt_or_eq.mp hj
    · rw [show bytes.length + 1 - 1 - j = bytes.length - 1 - j + 1 by omega, pow_succ', ← Nat.div_div_eq_div_mul,
        drop_last, ih hlt, List.getElem_append_left hlt]
    · simp only [bytesNat_concat, Nat.add_sub_cancel, Nat.sub_self, pow_zero, Nat.div_one, List.getElem_concat_length]
      omega

/-! The two directions together. -/

/-- The first `n` bytes of a word are its top `8 * n` bits. -/
theorem bytesNat_leading_bytes (v : Word) {n : Nat} (hn : n ≤ 32) :
    bytesNat ((List.range n).map (byteOf v)) = v.toNat / 256 ^ (32 - n) := by
  induction n with
  | zero => simpa using (Nat.div_eq_of_lt v.isLt).symm
  | succ n ih =>
    have next_digit : v.toNat / 256 ^ (32 - n) = v.toNat / 256 ^ (31 - n) / 256 := by
      rw [Nat.div_div_eq_div_mul, ← pow_succ, show 31 - n + 1 = 32 - n by omega]
    rw [List.range_succ, List.map_append, List.map_singleton, bytesNat_concat, ih (by omega), byteOf_toNat, next_digit,
      Nat.div_add_mod', show 32 - (n + 1) = 31 - n by omega]

theorem bytesNat_wordBytes (v : Word) : bytesNat (wordBytes v) = v.toNat := by
  simpa [wordBytes] using bytesNat_leading_bytes v le_rfl

@[simp] theorem bytesWord_wordBytes (v : Word) : bytesWord (wordBytes v) = v := by
  rw [bytesWord, bytesNat_wordBytes, BitVec.ofNat_toNat, BitVec.setWidth_eq]

theorem bytesWord_toNat {bytes : List Byte} (h32 : bytes.length = 32) :
    (bytesWord bytes).toNat = bytesNat bytes := by
  have fits : bytesNat bytes < 2 ^ 256 := by simpa [h32] using bytesNat_lt bytes
  rw [bytesWord, BitVec.toNat_ofNat, Nat.mod_eq_of_lt fits]

theorem byteOf_bytesWord {bytes : List Byte} (h32 : bytes.length = 32) {j : Nat} (hj : j < bytes.length) :
    byteOf (bytesWord bytes) j = bytes[j] := by
  apply BitVec.eq_of_toNat_eq
  have digit := bytesNat_digit hj
  rw [h32] at digit
  rw [byteOf_toNat, bytesWord_toNat h32, digit]

theorem wordBytes_bytesWord {bytes : List Byte} (h32 : bytes.length = 32) : wordBytes (bytesWord bytes) = bytes := by
  apply List.ext_getElem (by simp [h32])
  intro j _ hj
  simpa [wordBytes] using byteOf_bytesWord h32 hj

/-- R52's "conversely": a word is the sum of its bytes at their weights. -/
theorem toNat_eq_sum_bytes (v : Word) :
    v.toNat = ((List.range 32).map fun j => (byteOf v j).toNat * 2 ^ (8 * (31 - j))).sum := by
  calc v.toNat = bytesNat ((List.range 32).map (byteOf v)) := (bytesNat_wordBytes v).symm
    _ = ((List.range 32).map fun j => (byteOf v j).toNat * 256 ^ (31 - j)).sum := bytesNat_map_range (byteOf v) 32
    _ = ((List.range 32).map fun j => (byteOf v j).toNat * 2 ^ (8 * (31 - j))).sum := by simp only [byte_weight]

/-- Settles O12: the layout is that of `byteOf`, and both inverses go through the number the bytes stand for. -/
theorem byteViewRoundTrip : Obligations.ByteViewRoundTrip := by
  refine ⟨wordBytes_length, fun v j hj => ?_, fun v => ?_, bytesWord_wordBytes, fun bytes h32 => ?_⟩
  · exact wordBytes_getElem? v hj
  · exact toNat_eq_sum_bytes v
  · exact wordBytes_bytesWord h32

end Sys2Proof.Proofs

/-! The command decoder against the encoder (30_encoding.md rules R70, R71, R75). A byte is its two fields, so the
decoder reads a command from its code and from no other byte; the bytes left over are the reserved codes. -/

namespace Sys2Proof.Proofs

open Sys2Proof Sys2Proof.Machine

/-! The two fields of a code (R70). -/

@[simp] theorem codeUnit_instrCode (i : Instr) : codeUnit (instrCode i) = instrUnit i :=
  BitVec.extractLsb'_append_eq_left

@[simp] theorem codeFn_instrCode (i : Instr) : codeFn (instrCode i) = instrFn i :=
  BitVec.extractLsb'_append_eq_right

/-- R70's format `C8`: the two fields are all there is in a code. -/
theorem codeUnit_append_codeFn (code : Byte) : codeUnit code ++ codeFn code = code :=
  BitVec.extractLsb'_append_extractLsb'_eq_extractLsb' (by rfl) |>.trans BitVec.extractLsb'_eq_self

/-! Which bytes are a command's. -/

theorem decodeFields_eq_some {unit fn : Nat} {i : Instr} (h : decodeFields unit fn = some i) :
    unit = (instrUnit i).toNat ∧ fn = (instrFn i).toNat := by
  unfold decodeFields at h
  repeat' split at h
  all_goals cases h
  all_goals exact ⟨rfl, rfl⟩

@[simp] theorem decodeCode_instrCode (i : Instr) : decodeCode (instrCode i) = some i := by
  rw [decodeCode, codeUnit_instrCode, codeFn_instrCode]
  cases i <;> rfl

/-- The decoder knows a command by its code alone. -/
theorem decodeCode_eq_some_iff {code : Byte} {i : Instr} : decodeCode code = some i ↔ code = instrCode i := by
  constructor
  · intro h
    obtain ⟨unit_eq, fn_eq⟩ := decodeFields_eq_some h
    rw [← codeUnit_append_codeFn code, BitVec.eq_of_toNat_eq unit_eq, BitVec.eq_of_toNat_eq fn_eq, instrCode]
  · rintro rfl
    exact decodeCode_instrCode i

/-- The table of R71 lists the code of every command. -/
theorem instrCode_mem_commandCodes (i : Instr) : instrCode i ∈ commandCodes := by
  cases i <;> decide

/-- R75: the reserved codes are the bytes outside the table of R71. -/
theorem decodeCode_reserved {code : Byte} (h : code ∉ commandCodes) : decodeCode code = none := by
  rw [Option.eq_none_iff_forall_ne_some]
  intro i hi
  rw [decodeCode_eq_some_iff] at hi
  exact h (hi ▸ instrCode_mem_commandCodes i)

/-! The decoder's answers. -/

@[simp] theorem decode_instrCode (i : Instr) (rest : List Byte) : decode (instrCode i :: rest) = .ok i rest := by
  simp [decode]

theorem decode_reserved {code : Byte} (h : code ∉ commandCodes) (rest : List Byte) :
    decode (code :: rest) = .rejected (.reserved code) := by
  simp [decode, decodeCode_reserved h]

/-- Settles O3: each listed byte is the code of its command, and a byte outside the list is no command's. The theorem
has a namespace of its own because the model's table of codes bears the same name. -/
theorem Decoder.commandCodes : Obligations.CommandCodes :=
  ⟨decode_instrCode .mulw [], decode_instrCode .addmod [], decode_instrCode .submod [], decode_instrCode .redc [],
    decode_instrCode .tomont [], decode_instrCode .frommont [], decode_instrCode .montmul [],
    decode_instrCode .montexp [], decode_instrCode .montinv [], decode_instrCode .montdiv [],
    decode_instrCode .isinf [], decode_instrCode .rangechk [], decode_instrCode .oncurve [],
    decode_instrCode .ecadd [], fun _ reserved => decode_reserved reserved []⟩

/-! A reserved code at the port (R75). -/

/-- While no command runs, a byte written to index 6 reaches `CMD` whole. -/
theorem hostWrite_cmd {s : State} (code : Byte) (ended : runEnded s) :
    hostWrite 6 code.toNat s = writeCmd code s := by
  obtain ⟨busy, -⟩ | ⟨-, -, issued⟩ | ⟨-, not_cmd, -⟩ := hostWrite_cases 6 code.toNat s
  · exact absurd busy ended
  · rw [issued, BitVec.ofNat_toNat, BitVec.setWidth_eq]
  · exact absurd regAt_cmd not_cmd

theorem writeCmd_reserved {code : Byte} (h : code ∉ commandCodes) (s : State) :
    writeCmd code s = .next (issueReserved code s) := by
  obtain ⟨i, decoded, -⟩ | ⟨-, rejected⟩ := writeCmd_cases code s
  · simp [decodeCode_reserved h] at decoded
  · exact rejected

/-- The whole effect of R75: start and rejection together change what `afterRejection` lists and no more. -/
theorem issueReserved_eq_afterRejection {s : State} (code : Byte) (ended : runEnded s) :
    issueReserved code s = afterRejection code s := by
  obtain ⟨busy, -⟩ | ⟨-, rejected⟩ := issueReserved_cases code s
  · exact absurd busy ended
  · exact rejected.trans rfl

/-- Settles O11: the write reaches `CMD`, its byte is no command, and rejecting it leaves the state of R75. -/
theorem reservedCodeRejected : Obligations.ReservedCodeRejected := by
  intro s code ended reserved
  calc hostWrite 6 code.toNat s = writeCmd code s := hostWrite_cmd code ended
    _ = .next (issueReserved code s) := writeCmd_reserved reserved s
    _ = .next (afterRejection code s) := by rw [issueReserved_eq_afterRejection code ended]

end Sys2Proof.Proofs

/-! The Field Engine (40_field_engine.md): a command that answers words, the 256-bit primitives over the numbers, and
Montgomery reduction. REDC adds to `T = low + W * high` the multiple `q * N` that clears the low half, so what it leaves
in the high half is `T * R^(-1)` up to one subtraction of `N`. -/

namespace Sys2Proof.Proofs

open Sys2Proof Sys2Proof.Machine

/-! A command whose function answers words (R80, R81). -/

theorem exec_of_sampledOutcome_ok {i : Instr} {s : State} {q0 q1 : Word} (ended : runEnded s)
    (answered : sampledOutcome i s = .ok (.ok q0 q1)) :
    exec i s = .next (afterReturn (instrCode i) q0 q1 s) := by
  rw [exec_eq_issue, answered, issueCommand_ok ended]
  rfl

/-! The primitives of 00_scope.md section 6 over the numbers. -/

theorem W_pos : 0 < W := Nat.two_pow_pos 256

theorem one_lt_modN : 1 < modN := (Nat.one_lt_two_pow (by decide)).trans modN_bounds.1

theorem modN_pos : 0 < modN := Nat.zero_lt_of_lt one_lt_modN

theorem two_modN_lt_W : 2 * modN < W := by
  have below := modN_bounds.2
  unfold W
  omega

/-- A number below `W` is the number of its word. -/
theorem ofNat_toNat_of_lt {n : Nat} (h : n < W) : (BitVec.ofNat 256 n : Word).toNat = n :=
  (BitVec.toNat_ofNat n 256).trans (Nat.mod_eq_of_lt h)

theorem add256_toNat (a b : Word) : (add256 a b).toNat = (a.toNat + b.toNat) % W := BitVec.toNat_add a b

theorem mullo256_toNat (a b : Word) : (mullo256 a b).toNat = a.toNat * b.toNat % W := BitVec.toNat_mul a b

theorem mul_div_W_lt (a b : Word) : a.toNat * b.toNat / W < W :=
  Nat.div_lt_of_lt_mul (Nat.mul_lt_mul'' a.isLt b.isLt)

theorem mulhi256_toNat (a b : Word) : (mulhi256 a b).toNat = a.toNat * b.toNat / W :=
  ofNat_toNat_of_lt (mul_div_W_lt a b)

theorem carry256_toNat (a b : Word) : (carry256 a b).toNat = (a.toNat + b.toNat) / W := by
  have ha := a.isLt
  have hb := b.isLt
  apply ofNat_toNat_of_lt
  unfold W at *
  omega

theorem sub256_toNat {a b : Word} (h : b ≤ a) : (sub256 a b).toNat = a.toNat - b.toNat :=
  BitVec.toNat_sub_of_le h

/-! MULW (R92). -/

theorem mulw_fst_toNat (a b : Word) : (mulw a b).1.toNat = a.toNat * b.toNat % W :=
  ofNat_toNat_of_lt (Nat.mod_lt _ W_pos)

theorem mulw_snd_toNat (a b : Word) : (mulw a b).2.toNat = a.toNat * b.toNat / W :=
  ofNat_toNat_of_lt (mul_div_W_lt a b)

theorem mulw_comm (a b : Word) : mulw a b = mulw b a := by
  rw [mulw, mulw, Nat.mul_comm]

/-- The two halves lose nothing of the product. -/
theorem mulw_halves (a b : Word) : (mulw a b).1.toNat + W * (mulw a b).2.toNat = a.toNat * b.toNat := by
  rw [mulw_fst_toNat, mulw_snd_toNat, Nat.mod_add_div]

/-! SUBMOD (R95). -/

/-- The `N` that R95 adds keeps the difference of the reduced operands from going below zero. -/
theorem submod_toNat (a b : Word) : ((submod a b).toNat : Int) = ((a.toNat : Int) - b.toNat) % modN := by
  have reduced : b.toNat % modN ≤ a.toNat % modN + modN :=
    (Nat.mod_lt _ modN_pos).le.trans (Nat.le_add_left _ _)
  rw [submod, wordModN_toNat]
  push_cast [Nat.cast_sub reduced]
  rw [add_sub_right_comm, Int.add_emod_right, ← Int.sub_emod]

/-! REDC's lines over the numbers, on every operand pair (R97, R100). -/

/-- REDC's multiplier `q = low * NPRIME mod W`, a working value of R97's first line. -/
def redcMultiplier (low : Word) : Nat := low.toNat * constNPrime.toNat % W

/-- The high half of `T + q * N` with nothing wrapped: R97's `a_high` over the integers. -/
def redcExactHigh (low high : Word) : Nat :=
  high.toNat + redcMultiplier low * modN / W + (low.toNat + redcMultiplier low * modN % W) / W

theorem mullo256_constNPrime_toNat (low : Word) : (mullo256 low constNPrime).toNat = redcMultiplier low :=
  mullo256_toNat low constNPrime

theorem redcMultiplier_lt (low : Word) : redcMultiplier low < W := Nat.mod_lt _ W_pos

theorem redcHigh_toNat_stepwise (low high : Word) :
    (redcHigh low high).toNat
      = ((high.toNat + redcMultiplier low * modN / W) % W + (low.toNat + redcMultiplier low * modN % W) / W) % W := by
  simp only [redcHigh, add256_toNat, carry256_toNat, mulhi256_toNat]
  rw [mullo256_toNat _ constN, mullo256_constNPrime_toNat, constN_toNat]

/-- The two wrapping additions of R97 wrap once. -/
theorem redcHigh_toNat (low high : Word) : (redcHigh low high).toNat = redcExactHigh low high % W := by
  rw [redcHigh_toNat_stepwise, Nat.mod_add_mod, redcExactHigh]

theorem redc_toNat (low high : Word) :
    (redc low high).toNat
      = if (redcHigh low high).toNat ≥ modN then (redcHigh low high).toNat - modN else (redcHigh low high).toNat := by
  have above_iff : constN ≤ redcHigh low high ↔ (redcHigh low high).toNat ≥ modN := by
    rw [BitVec.le_def, constN_toNat]
  simp only [redc, ← above_iff]
  split
  · next above => rw [sub256_toNat above, constN_toNat]
  · rfl

/-! REDC as a reduction (R98, R99). -/

/-- What `NPRIME` is for: the multiple of `N` clears the low half. -/
theorem W_dvd_low_add_multiple (low : Word) : W ∣ low.toNat + redcMultiplier low * modN := by
  have inverse : W ∣ modN * constNPrime.toNat + 1 := Nat.dvd_of_mod_eq_zero constNPrime_spec
  have multiplier : redcMultiplier low ≡ low.toNat * constNPrime.toNat [MOD W] := Nat.mod_modEq _ _
  have cleared : low.toNat + redcMultiplier low * modN ≡ low.toNat * (modN * constNPrime.toNat + 1) [MOD W] := by
    calc low.toNat + redcMultiplier low * modN
        ≡ low.toNat + low.toNat * constNPrime.toNat * modN [MOD W] := (multiplier.mul_right modN).add_left low.toNat
      _ = low.toNat * (modN * constNPrime.toNat + 1) := by ring
  exact (cleared.dvd_iff dvd_rfl).2 (inverse.mul_left low.toNat)

/-- `T + q * N` is the high half that REDC keeps, `W` times over. -/
theorem redc_dividend (low high : Word) :
    low.toNat + W * high.toNat + redcMultiplier low * modN = W * redcExactHigh low high := by
  have low_half_cleared := W_dvd_low_add_multiple low
  rw [redcExactHigh]
  generalize redcMultiplier low * modN = qn at *
  unfold W at *
  omega

/-- Under R98's precondition one subtraction of `N` is enough. -/
theorem redcExactHigh_lt {low high : Word} (h : high.toNat < modN) : redcExactHigh low high < 2 * modN := by
  have dividend := redc_dividend low high
  have hlow := low.isLt
  have multiple := Nat.mul_lt_mul_of_pos_right (redcMultiplier_lt low) modN_pos
  generalize redcMultiplier low * modN = qn at *
  unfold W at *
  omega

theorem redcHigh_toNat_of_high_lt {low high : Word} (h : high.toNat < modN) :
    (redcHigh low high).toNat = redcExactHigh low high := by
  rw [redcHigh_toNat, Nat.mod_eq_of_lt ((redcExactHigh_lt h).trans two_modN_lt_W)]

theorem redc_lt_modN {low high : Word} (h : high.toNat < modN) : (redc low high).toNat < modN := by
  have bound := redcExactHigh_lt (low := low) h
  rw [redc_toNat, redcHigh_toNat_of_high_lt h]
  split <;> omega

/-- The reduction itself: `S * W` is congruent to `T`. -/
theorem redc_mul_W_modEq {low high : Word} (h : high.toNat < modN) :
    (redc low high).toNat * W ≡ low.toNat + W * high.toNat [MOD modN] := by
  have reduced : (redc low high).toNat ≡ redcExactHigh low high [MOD modN] := by
    rw [redc_toNat, redcHigh_toNat_of_high_lt h]
    split
    · next above => exact ((Nat.modEq_sub_modulus_iff above).2 rfl).symm
    · rfl
  calc (redc low high).toNat * W ≡ redcExactHigh low high * W [MOD modN] := reduced.mul_right W
    _ = low.toNat + W * high.toNat + redcMultiplier low * modN := by rw [redc_dividend, Nat.mul_comm]
    _ ≡ low.toNat + W * high.toNat [MOD modN] := Nat.add_mul_mod_self_right _ _ _

/-! Division by `W` modulo `N`, through `RINV` (R9, R13). -/

theorem W_mul_modRInv_modEq : W * modRInv ≡ 1 [MOD modN] :=
  modRInv_spec.trans (Nat.mod_eq_of_lt one_lt_modN).symm

/-- `RINV` undoes a factor `W`. -/
theorem modEq_mul_modRInv {x t : Nat} (h : x * W ≡ t [MOD modN]) : x ≡ t * modRInv [MOD modN] := by
  calc x = x * 1 := (Nat.mul_one x).symm
    _ ≡ x * (W * modRInv) [MOD modN] := W_mul_modRInv_modEq.symm.mul_left x
    _ = x * W * modRInv := (Nat.mul_assoc x W modRInv).symm
    _ ≡ t * modRInv [MOD modN] := h.mul_right modRInv

/-- R98's value under its precondition. -/
theorem redc_toNat_of_high_lt {low high : Word} (h : high.toNat < modN) :
    (redc low high).toNat = (low.toNat + W * high.toNat) * modRInv % modN :=
  (Nat.mod_eq_of_lt (redc_lt_modN h)).symm.trans (modEq_mul_modRInv (redc_mul_W_modEq h))

/-- REDC of an exact product: `a * b < N * W` is `high < N` for its halves (R105). -/
theorem redcPair_mulw_toNat {a b : Word} (h : a.toNat * b.toNat < modN * W) :
    (redcPair (mulw a b)).toNat = a.toNat * b.toNat * modRInv % modN := by
  have high_lt : (mulw a b).2.toNat < modN := by
    rw [mulw_snd_toNat]
    exact Nat.div_lt_of_lt_mul (Nat.mul_comm modN W ▸ h)
  rw [redcPair, redc_toNat_of_high_lt high_lt, mulw_halves]

theorem montmul_word_toNat {a b : Word} (h : a.toNat * b.toNat < modN * W) :
    (montmul ⟨a⟩ ⟨b⟩).word.toNat = a.toNat * b.toNat * modRInv % modN :=
  redcPair_mulw_toNat h

/-! The two conversions (R101, R103). -/

theorem constR2_modEq : constR2.toNat ≡ W * W [MOD modN] := by
  rw [constR2_toNat, montOne_toNat]
  exact (Nat.mod_modEq _ _).trans ((Nat.mod_modEq _ _).mul (Nat.mod_modEq _ _))

/-- Reducing the operand first is what puts TOMONT's product under REDC's precondition. -/
theorem reduced_mul_constR2_lt (a : Word) : (wordModN a.toNat).toNat * constR2.toNat < modN * W := by
  rw [wordModN_toNat]
  exact Nat.mul_lt_mul'' (Nat.mod_lt _ modN_pos) constR2.isLt

theorem tomont_word_toNat (a : Word) : (tomont ⟨a⟩).word.toNat = montNat (a.toNat % modN) := by
  have encoded : a.toNat % modN * W * W ≡ a.toNat % modN * constR2.toNat [MOD modN] := by
    rw [Nat.mul_assoc]
    exact constR2_modEq.symm.mul_left _
  calc (tomont ⟨a⟩).word.toNat
      = (wordModN a.toNat).toNat * constR2.toNat * modRInv % modN := redcPair_mulw_toNat (reduced_mul_constR2_lt a)
    _ = a.toNat % modN * constR2.toNat * modRInv % modN := by rw [wordModN_toNat]
    _ = montNat (a.toNat % modN) := (modEq_mul_modRInv encoded).symm

theorem frommont_word_toNat (m : Word) : (frommont ⟨m⟩).word.toNat = stdNat m.toNat := by
  have high_lt : (0 : Word).toNat < modN := modN_pos
  rw [frommont, redc_toNat_of_high_lt high_lt]
  rfl

/-! The commands. -/

/-- Settles O24: the two result words are `mulw`'s halves. -/
theorem mulwResult : Obligations.MulwResult := by
  intro s a b ended ha hb
  exact ⟨_, _, exec_of_sampledOutcome_ok ended (sampleTwo_of_held ha hb), mulw_fst_toNat a b, mulw_snd_toNat a b,
    mulw_comm a b⟩

/-- Settles O25: the sum is formed over the numbers and reduced once. -/
theorem addmodResult : Obligations.AddmodResult := by
  intro s a b ended ha hb
  exact ⟨_, exec_of_sampledOutcome_ok ended (sampleTwo_of_held ha hb), wordModN_toNat _⟩

/-- Settles O26: `submod` is the integer difference reduced. -/
theorem submodResult : Obligations.SubmodResult := by
  intro s a b ended ha hb
  exact ⟨_, exec_of_sampledOutcome_ok ended (sampleTwo_of_held ha hb), submod_toNat a b⟩

/-- Settles O27: `redc` is its pseudocode line by line, with no precondition. -/
theorem redcResult : Obligations.RedcResult := by
  intro s low high ended hlow hhigh
  exact ⟨redcMultiplier low, (redcHigh low high).toNat, redc low high,
    exec_of_sampledOutcome_ok ended (sampleTwo_of_held hlow hhigh), rfl, redcHigh_toNat_stepwise low high,
    redc_toNat low high⟩

/-- Settles O30: the product of the reduced operand with `R2` meets REDC's precondition, and `R2 * RINV` is `W`. -/
theorem tomontResult : Obligations.TomontResult := by
  intro s a ended ha
  refine ⟨_, _, _, exec_of_sampledOutcome_ok ended (sampleOne_of_held ha), tomont_word_toNat a, rfl, ?_, ?_⟩
  · rw [mulw_fst_toNat, wordModN_toNat]
  · rw [mulw_snd_toNat, wordModN_toNat]

/-- Settles O31: a single word is `T` with high half 0, so REDC's precondition always holds. -/
theorem frommontResult : Obligations.FrommontResult := by
  intro s m ended hm
  exact ⟨_, exec_of_sampledOutcome_ok ended (sampleOne_of_held hm), frommont_word_toNat m, rfl⟩

/-- Settles O33: `montmul` is REDC of `mulw`'s halves, and those keep the product exact. -/
theorem montmulResult : Obligations.MontmulResult := by
  intro s a b ended ha hb
  exact ⟨_, exec_of_sampledOutcome_ok ended (sampleTwo_of_held ha hb), rfl, montmul_word_toNat⟩

end Sys2Proof.Proofs

/-! The Modular Inverse Engine (41_inverse_engine.md): the loop of R131 ends for every operand that is not a multiple of
`N`, with an accumulator that is `R2` times the operand's inverse. Steps 1 and 2 and the subtraction each keep R135's
invariants; a pass over an even register shortens the two registers by a bit, and every pass leaves one even. -/

namespace Sys2Proof.Proofs

open Sys2Proof Sys2Proof.Machine

/-! The inverse engine's primitives over the numbers. -/

theorem bit0_eq_decide (a : Word) : bit0 a = decide (a.toNat % 2 = 1) := by
  rw [bit0, BitVec.getLsbD, Nat.testBit_zero]

theorem bit0_eq_true_iff {a : Word} : bit0 a = true ↔ a.toNat % 2 = 1 := by
  rw [bit0_eq_decide, decide_eq_true_iff]

theorem bit0_eq_false_iff {a : Word} : bit0 a = false ↔ a.toNat % 2 = 0 := by
  rw [bit0_eq_decide, decide_eq_false_iff_not]
  omega

theorem shr1_toNat (a : Word) : (shr1 a).toNat = a.toNat / 2 := by
  rw [shr1, BitVec.toNat_ushiftRight, Nat.shiftRight_eq_div_pow, pow_one]

/-! Halving an accumulator (R132, R133). -/

/-- The sum of an accumulator and the modulus does not wrap. -/
theorem add256_constN_toNat {x : Word} (h : x.toNat < modN) : (add256 x constN).toNat = x.toNat + modN := by
  have fits := two_modN_lt_W
  rw [add256_toNat, constN_toNat, Nat.mod_eq_of_lt (by omega)]

/-- `SPARE` makes the carry branch dead for every word. -/
theorem halveAcc_eq (x : Word) : halveAcc x = if bit0 x then shr1 (add256 x constN) else shr1 x := by
  simp [halveAcc, spareBit_true]

theorem halveAcc_toNat {x : Word} (h : x.toNat < modN) :
    (halveAcc x).toNat = if x.toNat % 2 = 0 then x.toNat / 2 else (x.toNat + modN) / 2 := by
  rw [halveAcc_eq]
  cases parity : bit0 x with
  | true => simp [bit0_eq_true_iff.1 parity, shr1_toNat, add256_constN_toNat h]
  | false => simp [bit0_eq_false_iff.1 parity, shr1_toNat]

theorem halveAcc_lt_modN {x : Word} (h : x.toNat < modN) : (halveAcc x).toNat < modN := by
  rw [halveAcc_toNat h]
  split <;> omega

/-- Halving is division by 2 modulo `N`: an odd accumulator takes the odd modulus first. -/
theorem two_mul_halveAcc_modEq {x : Word} (h : x.toNat < modN) : 2 * (halveAcc x).toNat ≡ x.toNat [MOD modN] := by
  have odd := modN_odd
  rw [halveAcc_toNat h]
  split
  · next even => rw [Nat.mul_div_cancel' (Nat.dvd_of_mod_eq_zero even)]
  · next =>
    rw [Nat.mul_div_cancel' (by omega)]
    exact Nat.add_mod_right _ _

/-! Subtracting accumulators (R131, R134). -/

theorem accSub_toNat {x y : Word} (hx : x.toNat < modN) (hy : y.toNat < modN) :
    (accSub x y).toNat = if x.toNat < y.toNat then x.toNat + modN - y.toNat else x.toNat - y.toNat := by
  simp only [accSub, BitVec.lt_def]
  split
  · have le_sum : y ≤ add256 x constN := by
      rw [BitVec.le_def, add256_constN_toNat hx]
      omega
    rw [sub256_toNat le_sum, add256_constN_toNat hx]
  · next not_below => exact sub256_toNat (Nat.not_lt.1 not_below)

theorem accSub_lt_modN {x y : Word} (hx : x.toNat < modN) (hy : y.toNat < modN) : (accSub x y).toNat < modN := by
  rw [accSub_toNat hx hy]
  split <;> omega

theorem accSub_add_modEq {x y : Word} (hx : x.toNat < modN) (hy : y.toNat < modN) :
    (accSub x y).toNat + y.toNat ≡ x.toNat [MOD modN] := by
  rw [accSub_toNat hx hy]
  split
  · rw [Nat.sub_add_cancel (by omega)]
    exact Nat.add_mod_right _ _
  · rw [Nat.sub_add_cancel (by omega)]

/-! A register and its accumulator (R135 (a) to (c)). -/

/-- The accumulator `acc` is reduced and stands for `x * R2 / base`. -/
def Tracks (base : Nat) (x acc : Word) : Prop :=
  acc.toNat < modN ∧ x.toNat * constR2.toNat ≡ acc.toNat * base [MOD modN]

theorem inverseLoopInvariant_iff {base : Nat} {r : InvRegs} :
    InverseLoopInvariant base r ↔ Tracks base r.u r.b ∧ Tracks base r.v r.c
      ∧ Nat.gcd r.u.toNat r.v.toNat = Nat.gcd base modN
      ∧ (base % modN ≠ 0 → 1 ≤ r.u.toNat ∧ 1 ≤ r.v.toNat) := by
  constructor
  · rintro ⟨utracks, vtracks, breduced, creduced, gcd, positive⟩
    exact ⟨⟨breduced, utracks⟩, ⟨creduced, vtracks⟩, gcd, positive⟩
  · rintro ⟨⟨breduced, utracks⟩, ⟨creduced, vtracks⟩, gcd, positive⟩
    exact ⟨utracks, vtracks, breduced, creduced, gcd, positive⟩

theorem registers_pos {base : Nat} {r : InvRegs} (inv : InverseLoopInvariant base r) (nonzero : base % modN ≠ 0) :
    1 ≤ r.u.toNat ∧ 1 ≤ r.v.toNat := by
  obtain ⟨-, -, -, positive⟩ := inverseLoopInvariant_iff.1 inv
  exact positive nonzero

theorem Tracks.halve {base : Nat} {x acc : Word} (h : Tracks base x acc) (even : bit0 x = false) :
    Tracks base (shr1 x) (halveAcc acc) := by
  obtain ⟨reduced, tracks⟩ := h
  refine ⟨halveAcc_lt_modN reduced, ?_⟩
  have coprime : Nat.gcd modN 2 = 1 := Nat.coprime_two_right.2 (Nat.odd_iff.2 modN_odd)
  refine Nat.ModEq.cancel_left_of_coprime coprime ?_
  calc 2 * ((shr1 x).toNat * constR2.toNat)
      = x.toNat * constR2.toNat := by
        rw [shr1_toNat, ← mul_assoc, Nat.mul_div_cancel' (Nat.dvd_of_mod_eq_zero (bit0_eq_false_iff.1 even))]
    _ ≡ acc.toNat * base [MOD modN] := tracks
    _ ≡ 2 * (halveAcc acc).toNat * base [MOD modN] := (two_mul_halveAcc_modEq reduced).symm.mul_right base
    _ = 2 * ((halveAcc acc).toNat * base) := mul_assoc _ _ _

theorem Tracks.sub {base : Nat} {x y xacc yacc : Word} (hx : Tracks base x xacc) (hy : Tracks base y yacc)
    (le : y ≤ x) : Tracks base (sub256 x y) (accSub xacc yacc) := by
  obtain ⟨xreduced, xtracks⟩ := hx
  obtain ⟨yreduced, ytracks⟩ := hy
  refine ⟨accSub_lt_modN xreduced yreduced, ?_⟩
  apply Nat.ModEq.add_right_cancel ytracks
  calc (sub256 x y).toNat * constR2.toNat + y.toNat * constR2.toNat
      = x.toNat * constR2.toNat := by rw [sub256_toNat le, ← add_mul, Nat.sub_add_cancel le]
    _ ≡ xacc.toNat * base [MOD modN] := xtracks
    _ ≡ ((accSub xacc yacc).toNat + yacc.toNat) * base [MOD modN] :=
        (accSub_add_modEq xreduced yreduced).symm.mul_right base
    _ = (accSub xacc yacc).toNat * base + yacc.toNat * base := add_mul _ _ _

theorem invLoad_has_invariant (base : Word) : InverseLoopInvariant base.toNat (invLoad ⟨base⟩) := by
  have reduced : constR2.toNat < modN := by
    rw [constR2_toNat]
    exact Nat.mod_lt _ modN_pos
  rw [inverseLoopInvariant_iff]
  refine ⟨⟨reduced, ?_⟩, ⟨modN_pos, ?_⟩, ?_, fun nonzero => ⟨?_, ?_⟩⟩
  · exact congrArg (· % modN) (Nat.mul_comm _ _)
  · simp [invLoad, constN_toNat, Nat.ModEq]
  · simp [invLoad, constN_toNat]
  · exact Nat.pos_of_ne_zero fun zero => nonzero (zero ▸ Nat.zero_mod modN)
  · exact constN_toNat ▸ modN_pos

/-! Steps 1 and 2 (R131): step 2 is step 1 with the two halves of the registers exchanged. -/

/-- The working registers with the `u`, `b` half and the `v`, `c` half exchanged. -/
def swapHalves (r : InvRegs) : InvRegs := { u := r.v, v := r.u, b := r.c, c := r.b }

@[simp] theorem swapHalves_swapHalves (r : InvRegs) : swapHalves (swapHalves r) = r := rfl

theorem halveV_eq_halveU_swapHalves (fuel : Nat) (r : InvRegs) :
    halveV fuel r = (halveU fuel (swapHalves r)).map swapHalves := by
  induction fuel generalizing r with
  | zero => cases odd : bit0 r.v <;> simp [halveV, halveU, swapHalves, odd]
  | succ fuel ih => cases odd : bit0 r.v <;> simp [halveV, halveU, swapHalves, odd, ih]

theorem swapHalves_keeps_invariant {base : Nat} {r : InvRegs} (inv : InverseLoopInvariant base r) :
    InverseLoopInvariant base (swapHalves r) := by
  rw [inverseLoopInvariant_iff] at inv ⊢
  obtain ⟨utracks, vtracks, gcd, positive⟩ := inv
  exact ⟨vtracks, utracks, (Nat.gcd_comm _ _).trans gcd, fun nonzero => (positive nonzero).symm⟩

theorem halveV_eq_some_iff {fuel : Nat} {r r' : InvRegs} :
    halveV fuel r = some r' ↔ halveU fuel (swapHalves r) = some (swapHalves r') := by
  rw [halveV_eq_halveU_swapHalves, Option.map_eq_some_iff]
  constructor
  · rintro ⟨t, halved, rfl⟩
    exact halved
  · exact fun halved => ⟨_, halved, rfl⟩

/-- One halving of step 1. -/
def halveUOnce (r : InvRegs) : InvRegs := { r with u := shr1 r.u, b := halveAcc r.b }

theorem halveU_of_odd {r : InvRegs} (odd : bit0 r.u = true) (fuel : Nat) : halveU fuel r = some r := by
  cases fuel <;> simp [halveU, odd]

theorem halveU_succ_of_even {r : InvRegs} (even : bit0 r.u = false) (fuel : Nat) :
    halveU (fuel + 1) r = halveU fuel (halveUOnce r) := by
  simp [halveU, halveUOnce, even]

/-- The induction of step 1: what a halving of an even `u` keeps holds at the step's end, and `u` is odd there. -/
theorem halveU_induction (P : InvRegs → Prop) (halving : ∀ r, bit0 r.u = false → P r → P (halveUOnce r)) {fuel : Nat}
    {r r' : InvRegs} (start : P r) (halved : halveU fuel r = some r') : P r' ∧ bit0 r'.u = true := by
  induction fuel generalizing r with
  | zero =>
    simp only [halveU, Option.ite_none_right_eq_some, Option.some.injEq] at halved
    obtain ⟨odd, rfl⟩ := halved
    exact ⟨start, odd⟩
  | succ fuel ih =>
    cases parity : bit0 r.u with
    | true =>
      obtain rfl := Option.some.inj ((halveU_of_odd parity _).symm.trans halved)
      exact ⟨start, parity⟩
    | false => exact ih (halving r parity start) (halveU_succ_of_even parity fuel ▸ halved)

/-! Steps 1 and 2 keep R135's invariants. -/

/-- The common divisor of R135 (c) is odd, as `N` is. -/
theorem invariant_not_both_even {base : Nat} {r : InvRegs} (inv : InverseLoopInvariant base r) :
    ¬(bit0 r.u = false ∧ bit0 r.v = false) := by
  rintro ⟨ueven, veven⟩
  obtain ⟨-, -, gcd, -⟩ := inverseLoopInvariant_iff.1 inv
  have two_dvd : 2 ∣ Nat.gcd base modN :=
    gcd ▸ Nat.dvd_gcd (Nat.dvd_of_mod_eq_zero (bit0_eq_false_iff.1 ueven))
      (Nat.dvd_of_mod_eq_zero (bit0_eq_false_iff.1 veven))
  have modN_even := Nat.mod_eq_zero_of_dvd (two_dvd.trans (Nat.gcd_dvd_right _ _))
  have odd := modN_odd
  omega

theorem halveUOnce_keeps_invariant {base : Nat} {r : InvRegs} (inv : InverseLoopInvariant base r)
    (even : bit0 r.u = false) : InverseLoopInvariant base (halveUOnce r) := by
  obtain ⟨utracks, vtracks, gcd, positive⟩ := inverseLoopInvariant_iff.1 inv
  have double : 2 * (shr1 r.u).toNat = r.u.toNat := by
    rw [shr1_toNat, Nat.mul_div_cancel' (Nat.dvd_of_mod_eq_zero (bit0_eq_false_iff.1 even))]
  have vodd : Nat.Coprime 2 r.v.toNat := by
    have odd : bit0 r.v = true := Bool.eq_true_of_not_eq_false fun veven => invariant_not_both_even inv ⟨even, veven⟩
    exact Nat.coprime_two_left.2 (Nat.odd_iff.2 (bit0_eq_true_iff.1 odd))
  refine inverseLoopInvariant_iff.2 ⟨utracks.halve even, vtracks, ?_, fun nonzero => ?_⟩
  · rw [← gcd, ← double]
    exact (vodd.gcd_mul_left_cancel _).symm
  · obtain ⟨upos, vpos⟩ := positive nonzero
    exact ⟨show 1 ≤ (shr1 r.u).toNat by omega, vpos⟩

/-- What halvings can leave of a register: all of it, or of an even one at most its half. -/
def HalvedFrom (x' x : Word) : Prop := x' = x ∨ (bit0 x = false ∧ 2 * x'.toNat ≤ x.toNat)

theorem HalvedFrom.halve {x' x : Word} (h : HalvedFrom x' x) (even : bit0 x' = false) : HalvedFrom (shr1 x') x := by
  rw [HalvedFrom, shr1_toNat]
  obtain rfl | ⟨xeven, half⟩ := h
  · exact .inr ⟨even, Nat.mul_div_le _ 2⟩
  · exact .inr ⟨xeven, by omega⟩

/-- Everything step 1 can do. -/
theorem halveU_spec {base fuel : Nat} {r r' : InvRegs} (inv : InverseLoopInvariant base r)
    (halved : halveU fuel r = some r') :
    InverseLoopInvariant base r' ∧ bit0 r'.u = true ∧ HalvedFrom r'.u r.u ∧ r'.v = r.v := by
  have kept := halveU_induction (fun t => InverseLoopInvariant base t ∧ HalvedFrom t.u r.u ∧ t.v = r.v)
    (fun t even ⟨tinv, tu, tv⟩ => ⟨halveUOnce_keeps_invariant tinv even, tu.halve even, tv⟩) ⟨inv, .inl rfl, rfl⟩ halved
  obtain ⟨⟨inv', u', v'⟩, odd⟩ := kept
  exact ⟨inv', odd, u', v'⟩

theorem halveV_spec {base fuel : Nat} {r r' : InvRegs} (inv : InverseLoopInvariant base r)
    (halved : halveV fuel r = some r') :
    InverseLoopInvariant base r' ∧ bit0 r'.v = true ∧ HalvedFrom r'.v r.v ∧ r'.u = r.u := by
  obtain ⟨inv', odd, v', u'⟩ := halveU_spec (swapHalves_keeps_invariant inv) (halveV_eq_some_iff.1 halved)
  exact ⟨swapHalves_swapHalves r' ▸ swapHalves_keeps_invariant inv', odd, v', u'⟩

/-- Step 1 ends: each halving takes one bit of a `u` that is not zero. -/
theorem halveU_ends {fuel : Nat} {r : InvRegs} (upos : 1 ≤ r.u.toNat) (bits : Nat.log 2 r.u.toNat ≤ fuel) :
    ∃ r', halveU fuel r = some r' := by
  induction fuel generalizing r with
  | zero =>
    have u_eq_one : r.u.toNat = 1 := by
      have below := Nat.lt_pow_of_log_lt Nat.one_lt_two (Nat.lt_succ_of_le bits)
      omega
    exact ⟨r, halveU_of_odd (bit0_eq_true_iff.2 (by rw [u_eq_one])) 0⟩
  | succ fuel ih =>
    cases parity : bit0 r.u with
    | true => exact ⟨r, halveU_of_odd parity _⟩
    | false =>
      have even := bit0_eq_false_iff.1 parity
      rw [halveU_succ_of_even parity]
      apply ih <;> rw [halveUOnce, shr1_toNat]
      · omega
      · rw [Nat.log_div_base]
        omega

theorem halveV_ends {fuel : Nat} {r : InvRegs} (vpos : 1 ≤ r.v.toNat) (bits : Nat.log 2 r.v.toNat ≤ fuel) :
    ∃ r', halveV fuel r = some r' := by
  obtain ⟨t, halved⟩ : ∃ t, halveU fuel (swapHalves r) = some t := halveU_ends vpos bits
  exact ⟨swapHalves t, halveV_eq_some_iff.2 halved⟩

theorem log_toNat_le_innerFuel (x : Word) : Nat.log 2 x.toNat ≤ Config.invInnerFuel :=
  (Nat.log_mono_right x.isLt.le).trans_eq (Nat.log_pow Nat.one_lt_two 256)

/-! One outer iteration. -/

/-- Everything steps 1 and 2 of a pass can do: the pass subtracts in registers `t` that are both odd. -/
theorem invPass_cases {base : Nat} {r r' : InvRegs} (inv : InverseLoopInvariant base r) (pass : invPass r = some r') :
    ∃ t, InverseLoopInvariant base t ∧ bit0 t.u = true ∧ bit0 t.v = true ∧ HalvedFrom t.u r.u ∧ HalvedFrom t.v r.v
      ∧ r' = invSubtract t := by
  unfold invPass at pass
  split at pass
  · cases pass
  · next r1 halvedU =>
    split at pass
    · cases pass
    · next r2 halvedV =>
      obtain ⟨inv1, uodd, u1, v1⟩ := halveU_spec inv halvedU
      obtain ⟨inv2, vodd, v2, u2⟩ := halveV_spec inv1 halvedV
      exact ⟨r2, inv2, u2 ▸ uodd, vodd, u2 ▸ u1, v1 ▸ v2, (Option.some.inj pass).symm⟩

theorem invPass_ends {base : Nat} {r : InvRegs} (inv : InverseLoopInvariant base r) (nonzero : base % modN ≠ 0) :
    ∃ r', invPass r = some r' := by
  obtain ⟨upos, -⟩ := registers_pos inv nonzero
  obtain ⟨r1, halvedU⟩ := halveU_ends upos (log_toNat_le_innerFuel r.u)
  obtain ⟨inv1, -⟩ := halveU_spec inv halvedU
  obtain ⟨-, vpos⟩ := registers_pos inv1 nonzero
  obtain ⟨r2, halvedV⟩ := halveV_ends vpos (log_toNat_le_innerFuel r1.v)
  exact ⟨invSubtract r2, by simp [invPass, halvedU, halvedV]⟩

/-- The subtraction keeps R135's invariants on registers that differ; (d) is where they have to. -/
theorem invSubtract_keeps_invariant {base : Nat} {r : InvRegs} (inv : InverseLoopInvariant base r)
    (differ : base % modN ≠ 0 → r.u ≠ r.v) : InverseLoopInvariant base (invSubtract r) := by
  obtain ⟨utracks, vtracks, gcd, positive⟩ := inverseLoopInvariant_iff.1 inv
  unfold invSubtract
  split
  · next below =>
    have le := BitVec.le_of_lt below
    have lt := BitVec.lt_def.1 below
    refine inverseLoopInvariant_iff.2 ⟨utracks, vtracks.sub utracks le, ?_, fun nonzero => ⟨(positive nonzero).1, ?_⟩⟩
    · rw [sub256_toNat le, Nat.gcd_sub_self_right le, gcd]
    · rw [sub256_toNat le]
      exact Nat.sub_pos_of_lt lt
  · next not_below =>
    have le := BitVec.not_lt.1 not_below
    refine inverseLoopInvariant_iff.2 ⟨utracks.sub vtracks le, vtracks, ?_, fun nonzero => ⟨?_, (positive nonzero).2⟩⟩
    · rw [sub256_toNat le, Nat.gcd_sub_self_left le, gcd]
    · rw [sub256_toNat le]
      exact Nat.sub_pos_of_lt (lt_of_le_of_ne le fun same => differ nonzero (BitVec.eq_of_toNat_eq same.symm))

theorem invDone_iff {r : InvRegs} : invDone r = true ↔ r.u = 1 ∨ r.v = 1 := by
  simp [invDone]

theorem gcd_modN_eq_one {base : Nat} (nonzero : base % modN ≠ 0) : Nat.gcd base modN = 1 :=
  ((Nat.Prime.coprime_iff_not_dvd Laws.modN_prime).2 fun dvd => nonzero (Nat.mod_eq_zero_of_dvd dvd)).symm

theorem HalvedFrom.even_of_ne {x' x : Word} (h : HalvedFrom x' x) (ne : x' ≠ x) : bit0 x = false :=
  (h.resolve_left ne).1

/-- The registers of a pass that the loop test admits differ once halved: with no common divisor, equal ones would both
be 1, so both halved, so both even when the pass began. -/
theorem halved_registers_differ {base : Nat} {r t : InvRegs} (nonzero : base % modN ≠ 0)
    (inv : InverseLoopInvariant base r) (running : invDone r = false) (tinv : InverseLoopInvariant base t)
    (hu : HalvedFrom t.u r.u) (hv : HalvedFrom t.v r.v) : t.u ≠ t.v := by
  intro same
  obtain ⟨-, -, gcd, -⟩ := inverseLoopInvariant_iff.1 tinv
  have v_eq_one : t.v = 1 := by
    rw [same, Nat.gcd_self, gcd_modN_eq_one nonzero] at gcd
    exact BitVec.eq_of_toNat_eq gcd
  have not_done : ¬(r.u = 1 ∨ r.v = 1) := fun one => Bool.false_ne_true (running.symm.trans (invDone_iff.2 one))
  obtain ⟨u_ne_one, v_ne_one⟩ := not_or.1 not_done
  exact invariant_not_both_even inv
    ⟨hu.even_of_ne fun kept => u_ne_one (kept.symm.trans (same.trans v_eq_one)),
      hv.even_of_ne fun kept => v_ne_one (kept.symm.trans v_eq_one)⟩

/-- An outer iteration keeps R135's invariants. -/
theorem invPass_keeps_invariant {base : Nat} {r r' : InvRegs} (inv : InverseLoopInvariant base r)
    (running : invDone r = false) (pass : invPass r = some r') : InverseLoopInvariant base r' := by
  obtain ⟨t, tinv, -, -, hu, hv, rfl⟩ := invPass_cases inv pass
  exact invSubtract_keeps_invariant tinv fun nonzero => halved_registers_differ nonzero inv running tinv hu hv

/-! Termination (R139). -/

/-- The bits that halvings can still take from `u` and `v`. -/
def invBits (r : InvRegs) : Nat := Nat.log 2 r.u.toNat + Nat.log 2 r.v.toNat

theorem HalvedFrom.log_le {x' x : Word} (h : HalvedFrom x' x) : Nat.log 2 x'.toNat ≤ Nat.log 2 x.toNat := by
  obtain rfl | ⟨-, half⟩ := h
  · exact le_rfl
  · exact Nat.log_mono_right (by omega)

theorem HalvedFrom.log_lt {x' x : Word} (h : HalvedFrom x' x) (even : bit0 x = false) (odd : bit0 x' = true) :
    Nat.log 2 x'.toNat < Nat.log 2 x.toNat := by
  rw [bit0_eq_false_iff] at even
  rw [bit0_eq_true_iff] at odd
  obtain rfl | ⟨-, half⟩ := h
  · omega
  · calc Nat.log 2 x'.toNat < Nat.log 2 (x'.toNat * 2) := by
          rw [Nat.log_mul_base Nat.one_lt_two (by omega)]
          exact Nat.lt_succ_self _
      _ ≤ Nat.log 2 x.toNat := Nat.log_mono_right (by omega)

/-- Odd minus odd: the subtraction leaves an even register, and lengthens none. -/
theorem invSubtract_spec {r : InvRegs} (uodd : bit0 r.u = true) (vodd : bit0 r.v = true) :
    (bit0 (invSubtract r).u = false ∨ bit0 (invSubtract r).v = false) ∧ invBits (invSubtract r) ≤ invBits r := by
  rw [bit0_eq_true_iff] at uodd vodd
  unfold invSubtract invBits
  simp only [bit0_eq_false_iff]
  split
  · next below =>
    rw [sub256_toNat (BitVec.le_of_lt below)]
    exact ⟨.inr (by omega), Nat.add_le_add_left (Nat.log_mono_right (Nat.sub_le _ _)) _⟩
  · next not_below =>
    rw [sub256_toNat (BitVec.not_lt.1 not_below)]
    exact ⟨.inl (by omega), Nat.add_le_add_right (Nat.log_mono_right (Nat.sub_le _ _)) _⟩

/-- What a pass leaves for the next: an even register, and a bit less when it had one itself. -/
theorem invPass_progress {base : Nat} {r r' : InvRegs} (inv : InverseLoopInvariant base r)
    (pass : invPass r = some r') :
    (bit0 r'.u = false ∨ bit0 r'.v = false) ∧ invBits r' ≤ invBits r
      ∧ (bit0 r.u = false ∨ bit0 r.v = false → invBits r' < invBits r) := by
  obtain ⟨t, -, uodd, vodd, hu, hv, rfl⟩ := invPass_cases inv pass
  obtain ⟨even, shorter⟩ := invSubtract_spec uodd vodd
  have ushorter := hu.log_le
  have vshorter := hv.log_le
  refine ⟨even, shorter.trans (Nat.add_le_add ushorter vshorter), fun evenBefore => shorter.trans_lt ?_⟩
  obtain ueven | veven := evenBefore
  · exact Nat.add_lt_add_of_lt_of_le (hu.log_lt ueven uodd) vshorter
  · exact Nat.add_lt_add_of_le_of_lt ushorter (hv.log_lt veven vodd)

theorem invLoop_of_done {r : InvRegs} (done : invDone r = true) (fuel : Nat) : invLoop fuel r = some r := by
  cases fuel <;> simp [invLoop, done]

theorem invLoop_succ_of_pass {r r' : InvRegs} (running : invDone r = false) (pass : invPass r = some r')
    (fuel : Nat) : invLoop (fuel + 1) r = invLoop fuel r' := by
  simp [invLoop, running, pass]

theorem invDone_of_invBits_zero {r : InvRegs} (upos : 1 ≤ r.u.toNat) (bits : invBits r = 0) : invDone r = true := by
  obtain ⟨ubits, -⟩ := Nat.add_eq_zero_iff.1 bits
  have below := Nat.lt_pow_of_log_lt Nat.one_lt_two (ubits ▸ Nat.one_pos)
  have u_eq_one : r.u = 1 := BitVec.eq_of_toNat_eq (show r.u.toNat = 1 by omega)
  exact invDone_iff.2 (.inl u_eq_one)

/-- From registers of which one is even, a pass for each of their bits is enough. -/
theorem invLoop_ends_of_even {base fuel : Nat} {r : InvRegs} (nonzero : base % modN ≠ 0)
    (inv : InverseLoopInvariant base r) (even : bit0 r.u = false ∨ bit0 r.v = false) (bits : invBits r ≤ fuel) :
    ∃ r', invLoop fuel r = some r' ∧ InverseLoopInvariant base r' ∧ invDone r' = true := by
  induction fuel generalizing r with
  | zero =>
    obtain ⟨upos, -⟩ := registers_pos inv nonzero
    have done := invDone_of_invBits_zero upos (Nat.le_zero.1 bits)
    exact ⟨r, invLoop_of_done done 0, inv, done⟩
  | succ fuel ih =>
    cases running : invDone r with
    | true => exact ⟨r, invLoop_of_done running _, inv, running⟩
    | false =>
      obtain ⟨r', pass⟩ := invPass_ends inv nonzero
      obtain ⟨even', -, shorter⟩ := invPass_progress inv pass
      rw [invLoop_succ_of_pass running pass]
      exact ih (invPass_keeps_invariant inv running pass) even'
        (Nat.le_of_lt_succ ((shorter even).trans_le bits))

/-- From any registers one pass more is enough: the first may halve nothing. -/
theorem invLoop_ends {base fuel : Nat} {r : InvRegs} (nonzero : base % modN ≠ 0)
    (inv : InverseLoopInvariant base r) (bits : invBits r < fuel) :
    ∃ r', invLoop fuel r = some r' ∧ InverseLoopInvariant base r' ∧ invDone r' = true := by
  cases running : invDone r with
  | true => exact ⟨r, invLoop_of_done running _, inv, running⟩
  | false =>
    obtain ⟨r', pass⟩ := invPass_ends inv nonzero
    obtain ⟨even, shorter, -⟩ := invPass_progress inv pass
    obtain ⟨rest, rfl⟩ := Nat.exists_eq_add_one_of_ne_zero (Nat.ne_zero_of_lt bits)
    rw [invLoop_succ_of_pass running pass]
    exact invLoop_ends_of_even nonzero (invPass_keeps_invariant inv running pass) even
      (shorter.trans (Nat.le_of_lt_succ bits))

/-- The outer fuel covers an operand of 256 bits: 255 bits of the operand and 253 of `N` (R139). -/
theorem invBits_invLoad_lt (base : Word) : invBits (invLoad ⟨base⟩) < Config.invOuterFuel := by
  have ubits : Nat.log 2 base.toNat < 256 := Nat.log_lt_of_lt_pow' (by decide) base.isLt
  have vbits : Nat.log 2 modN < 254 := Nat.log_lt_of_lt_pow' (by decide) modN_bounds.2
  calc invBits (invLoad ⟨base⟩) = Nat.log 2 base.toNat + Nat.log 2 modN := by rw [← constN_toNat]; rfl
    _ < Config.invOuterFuel := by unfold Config.invOuterFuel; omega

/-! The result (R136). -/

/-- At the loop's end the selected accumulator tracks the register that is 1. -/
theorem invSelect_tracks_one {base : Nat} {r : InvRegs} (inv : InverseLoopInvariant base r)
    (done : invDone r = true) : Tracks base 1 (invSelect r).word := by
  obtain ⟨utracks, vtracks, -, -⟩ := inverseLoopInvariant_iff.1 inv
  unfold invSelect
  split
  · next u_eq_one => exact u_eq_one ▸ utracks
  · next u_ne_one =>
    have v_eq_one := (invDone_iff.1 done).resolve_left u_ne_one
    exact v_eq_one ▸ vtracks

/-- MONTINV ends for every operand that is not a multiple of `N`, with a reduced word that is `R2` times the operand's
inverse. -/
theorem montinv_ends {base : Word} (nonzero : base.toNat % modN ≠ 0) :
    ∃ q : Word, montinv ⟨base⟩ = some ⟨q⟩ ∧ q.toNat < modN ∧ base.toNat * q.toNat ≡ constR2.toNat [MOD modN] := by
  obtain ⟨r, ended, inv, done⟩ := invLoop_ends nonzero (invLoad_has_invariant base)
    (invBits_invLoad_lt base)
  obtain ⟨reduced, tracks⟩ := invSelect_tracks_one inv done
  refine ⟨(invSelect r).word, by simp [montinv, ended], reduced, ?_⟩
  calc base.toNat * (invSelect r).word.toNat = (invSelect r).word.toNat * base.toNat := Nat.mul_comm _ _
    _ ≡ (1 : Word).toNat * constR2.toNat [MOD modN] := tracks.symm
    _ = constR2.toNat := Nat.one_mul _

/-- The Montgomery product of an operand and its inverse is `R` (R136). -/
theorem montmul_of_inverse {base q : Word} (reduced : q.toNat < modN)
    (inverse : base.toNat * q.toNat ≡ constR2.toNat [MOD modN]) :
    montmul ⟨base⟩ ⟨q⟩ = ⟨montOne⟩ := by
  have bound : base.toNat * q.toNat < modN * W := by
    rw [Nat.mul_comm modN]
    exact Nat.mul_lt_mul'' base.isLt reduced
  have product : W * W ≡ base.toNat * q.toNat [MOD modN] := constR2_modEq.symm.trans inverse.symm
  refine congrArg Mont.mk (BitVec.eq_of_toNat_eq ?_)
  calc (montmul ⟨base⟩ ⟨q⟩).word.toNat = base.toNat * q.toNat * modRInv % modN := montmul_word_toNat bound
    _ = W % modN := (modEq_mul_modRInv product).symm
    _ = montOne.toNat := montOne_toNat.symm

theorem frommont_montOne : frommont ⟨montOne⟩ = ⟨1⟩ := by
  refine congrArg Std.mk (BitVec.eq_of_toNat_eq ?_)
  calc (frommont ⟨montOne⟩).word.toNat = montOne.toNat * modRInv % modN := frommont_word_toNat montOne
    _ = W * modRInv % modN := by rw [montOne_toNat, Nat.mod_mul_mod]
    _ = 1 := modRInv_spec

/-- `W` has the inverse `RINV`, so an encoding is 0 modulo `N` only for 0. -/
theorem tomont_word_mod_ne_zero {a : Word} (nonzero : a.toNat ≠ 0) (reduced : a.toNat < modN) :
    (tomont ⟨a⟩).word.toNat % modN ≠ 0 := by
  rw [tomont_word_toNat, Nat.mod_eq_of_lt reduced, montNat, Nat.mod_mod]
  intro zero
  have vanishes : a.toNat ≡ 0 * modRInv [MOD modN] := modEq_mul_modRInv (zero.trans (Nat.zero_mod modN).symm)
  rw [Nat.zero_mul] at vanishes
  exact nonzero (vanishes.eq_of_lt_of_lt reduced modN_pos)

/-- Settles O40: the engine ends on the encoding, its product with what the engine answers is `R`, and `R` decodes
to 1. -/
theorem inverseCorrectness : Obligations.InverseCorrectness := by
  intro a nonzero reduced
  obtain ⟨q, ended, below, inverse⟩ := montinv_ends (tomont_word_mod_ne_zero nonzero reduced)
  exact ⟨⟨q⟩, ended, (congrArg frommont (montmul_of_inverse below inverse)).trans frommont_montOne⟩

end Sys2Proof.Proofs

/-! The Curve Validator (42_curve_validator.md): each check over the numbers, the commands that answer one check as a
word, and the kind a composite validation reports. -/

namespace Sys2Proof.Proofs

open Sys2Proof Sys2Proof.Machine

/-! The three checks over the numbers. -/

theorem isinf_iff {x y : Word} : isinf x y = true ↔ x.toNat = 0 ∧ y.toNat = 0 := by
  rw [isinf, Bool.and_eq_true, beq_iff_eq, beq_iff_eq, BitVec.toNat_eq, BitVec.toNat_eq]
  rfl

theorem rangechk_iff {v : Word} : rangechk v = true ↔ v.toNat < modN := by
  rw [rangechk, decide_eq_true_iff, BitVec.lt_def, constN_toNat]

/-- The right side of R8 with its constants put in: `a = 0` leaves no linear term. -/
theorem oncurve_iff {x y : Word} :
    oncurve ⟨x⟩ ⟨y⟩ = true ↔ y.toNat ^ 2 % modN = (x.toNat ^ 3 + 3) % modN := by
  have square : y.toNat * y.toNat = y.toNat ^ 2 := (pow_two _).symm
  have right_side : x.toNat * x.toNat * x.toNat + curveA * x.toNat + curveB = x.toNat ^ 3 + 3 := by
    unfold curveA curveB
    ring
  rw [oncurve, beq_iff_eq, square, right_side]

theorem validPoint_iff {x y : Word} :
    validPoint x y = true
      ↔ x.toNat < modN ∧ y.toNat < modN ∧ y.toNat ^ 2 % modN = (x.toNat ^ 3 + 3) % modN := by
  rw [validPoint, Bool.and_eq_true, Bool.and_eq_true, rangechk_iff, rangechk_iff, oncurve_iff, and_assoc]

/-! The commands (R73, R80, R81). -/

/-- A command whose function is a check answers the word 1 or 0 for what the check means. -/
theorem exec_of_sampledOutcome_bool {i : Instr} {s : State} {check : Bool} {meaning : Prop} [Decidable meaning]
    (ended : runEnded s) (answered : sampledOutcome i s = .ok (okBool check)) (check_iff : check = true ↔ meaning) :
    exec i s = .next (afterReturn (instrCode i) (if meaning then 1 else 0) 0 s) := by
  rw [exec_of_sampledOutcome_ok ended answered, if_congr check_iff rfl rfl]

/-- Settles O43: the word comparison of `isinf` is that of the two numbers with 0. -/
theorem isinfResult : Obligations.IsinfResult := by
  intro s x y ended hx hy
  exact exec_of_sampledOutcome_bool ended (sampleTwo_of_held hx hy) isinf_iff

/-- Settles O44: the unsigned comparison of words is that of the numbers. -/
theorem rangechkResult : Obligations.RangechkResult := by
  intro s v ended hv
  exact exec_of_sampledOutcome_bool ended (sampleOne_of_held hv) rangechk_iff

/-- Settles O45: both sides are formed over the numbers and reduced once, with no bound on the words. -/
theorem oncurveResult : Obligations.OncurveResult := by
  intro s x y ended hx hy
  exact exec_of_sampledOutcome_bool ended (sampleTwo_of_held hx hy) oncurve_iff

/-! Validation of one point (R156, R175). -/

/-- Everything a validation can report, each with the words that it is reported for. -/
theorem validateOne_cases (x y : Word) :
    (¬(x.toNat < modN ∧ y.toNat < modN) ∧ validateOne x y = some .coordinateOutOfRange)
      ∨ (x.toNat < modN ∧ y.toNat < modN ∧ y.toNat ^ 2 % modN ≠ (x.toNat ^ 3 + 3) % modN
          ∧ validateOne x y = some .pointNotOnCurve)
      ∨ (x.toNat < modN ∧ y.toNat < modN ∧ y.toNat ^ 2 % modN = (x.toNat ^ 3 + 3) % modN
          ∧ validateOne x y = none) := by
  simp only [ne_eq, ← rangechk_iff, ← oncurve_iff, validateOne]
  cases rangechk x with
  | false => simp
  | true =>
    cases rangechk y with
    | false => simp
    | true => cases oncurve ⟨x⟩ ⟨y⟩ <;> simp

/-- Settles O46: a validation ends in one of three ways, and which one tells the range and the curve equation. -/
theorem validationKinds : Obligations.ValidationKinds := by
  intro x y
  rw [validPoint_iff]
  obtain ⟨out, reported⟩ | ⟨hx, hy, off, reported⟩ | ⟨hx, hy, on, reported⟩ := validateOne_cases x y
  · have not_in_range : ∀ p : Prop, ¬(x.toNat < modN ∧ y.toNat < modN ∧ p) :=
      fun _ ⟨hx, hy, _⟩ => out ⟨hx, hy⟩
    simp [reported, out, not_in_range]
  · simp [reported, hx, hy, off]
  · simp [reported, hx, hy, on]

end Sys2Proof.Proofs

/-! The Group Law dispatcher (43_group_law.md): the infinity and the valid-point paths of the decision tree, and its
steps 4 and 5, whose conditions turn on the negation of a reduced `y`. -/

namespace Sys2Proof.Proofs

open Sys2Proof Sys2Proof.Machine

/-! The command (R72, R81). -/

/-- ECADD on held points, where the decision tree answers two words. -/
theorem exec_ecadd_of_holdsPoints {s : State} {x1 y1 x2 y2 q0 q1 : Word} {budget : Budget}
    (held : holdsPoints x1 y1 x2 y2 budget s) (answered : ecadd x1 y1 x2 y2 budget = .ok q0 q1) :
    exec .ecadd s = .next (afterReturn 0x30 q0 q1 s) := by
  obtain ⟨ended, hx1, hy1, hx2, hy2, hbudget⟩ := held
  have sampled : sampledOutcome .ecadd s = .ok (ecadd x1 y1 x2 y2 budget) :=
    samplePoints_of_held hx1 hy1 hx2 hy2 hbudget
  exact exec_of_sampledOutcome_ok ended (answered ▸ sampled)

/-! Infinity and valid points at steps 1 to 3 (R172 to R174). -/

theorem validateOne_eq_none_iff {x y : Word} : validateOne x y = none ↔ validPoint x y = true :=
  (validationKinds x y).1

/-- The infinity encoding is off the curve: `0` is not `0 + 3`. -/
theorem isinf_eq_false_of_validPoint {x y : Word} (valid : validPoint x y = true) : isinf x y = false := by
  obtain ⟨-, -, on⟩ := validPoint_iff.1 valid
  refine Bool.eq_false_iff.2 fun infinity => ?_
  obtain ⟨hx, hy⟩ := isinf_iff.1 infinity
  rw [hx, hy] at on
  exact absurd on (by decide)

theorem validateBoth_eq_none_of_validPoint {x1 y1 x2 y2 : Word} (valid1 : validPoint x1 y1 = true)
    (valid2 : validPoint x2 y2 = true) : validateBoth x1 y1 x2 y2 = none := by
  simp only [validPoint, Bool.and_eq_true] at valid1 valid2
  simp [validateBoth, valid1, valid2]

theorem ecaddOnePoint_of_validPoint {x y : Word} (valid : validPoint x y = true) (sampled : Budget) :
    ecaddOnePoint x y sampled = .ok x y := by
  rw [ecaddOnePoint, validateOne_eq_none_iff.2 valid]

/-- Step 1. -/
theorem ecadd_of_isinf_both {x1 y1 x2 y2 : Word} (inf1 : isinf x1 y1 = true) (inf2 : isinf x2 y2 = true)
    (sampled : Budget) : ecadd x1 y1 x2 y2 sampled = .ok 0 0 := by
  simp [ecadd, inf1, inf2]

/-- Step 2, with infinity on the left. -/
theorem ecadd_of_isinf_left {x1 y1 x2 y2 : Word} (inf1 : isinf x1 y1 = true) (finite2 : isinf x2 y2 = false)
    (sampled : Budget) : ecadd x1 y1 x2 y2 sampled = ecaddOnePoint x2 y2 sampled := by
  simp [ecadd, inf1, finite2]

/-- Step 2, with infinity on the right. -/
theorem ecadd_of_isinf_right {x1 y1 x2 y2 : Word} (finite1 : isinf x1 y1 = false) (inf2 : isinf x2 y2 = true)
    (sampled : Budget) : ecadd x1 y1 x2 y2 sampled = ecaddOnePoint x1 y1 sampled := by
  simp [ecadd, finite1, inf2]

theorem isinf_zero_zero : isinf 0 0 = true := isinf_iff.2 ⟨rfl, rfl⟩

theorem ecadd_zero_left {x y : Word} (valid : validPoint x y = true) (sampled : Budget) :
    ecadd 0 0 x y sampled = .ok x y := by
  rw [ecadd_of_isinf_left isinf_zero_zero (isinf_eq_false_of_validPoint valid), ecaddOnePoint_of_validPoint valid]

theorem ecadd_zero_right {x y : Word} (valid : validPoint x y = true) (sampled : Budget) :
    ecadd x y 0 0 sampled = .ok x y := by
  rw [ecadd_of_isinf_right (isinf_eq_false_of_validPoint valid) isinf_zero_zero, ecaddOnePoint_of_validPoint valid]

/-- Two valid points pass steps 1 to 3. -/
theorem ecadd_of_validPoint {x1 y1 x2 y2 : Word} (valid1 : validPoint x1 y1 = true)
    (valid2 : validPoint x2 y2 = true) (sampled : Budget) :
    ecadd x1 y1 x2 y2 sampled = ecaddBothValid x1 y1 x2 y2 sampled := by
  simp [ecadd, isinf_eq_false_of_validPoint valid1, isinf_eq_false_of_validPoint valid2,
    validateBoth_eq_none_of_validPoint valid1 valid2]

/-! Negation of a `y` (R176). -/

theorem negY_toNat_int (y : Word) : ((negY y).toNat : Int) = ((modN : Int) - y.toNat) % modN := by
  rw [negY, submod_toNat, sub_eq_add_neg (modN : Int), Int.add_emod_left]
  simp

theorem negY_toNat {y : Word} (reduced : y.toNat < modN) : (negY y).toNat = (modN - y.toNat) % modN := by
  have exact_value := negY_toNat_int y
  rw [← Nat.cast_sub reduced.le] at exact_value
  exact_mod_cast exact_value

theorem negY_negY {y : Word} (reduced : y.toNat < modN) : negY (negY y) = y := by
  have neg_reduced : (negY y).toNat < modN := (negY_toNat reduced).trans_lt (Nat.mod_lt _ modN_pos)
  refine BitVec.eq_of_toNat_eq ?_
  rw [negY_toNat neg_reduced, negY_toNat reduced]
  obtain zero | pos := Nat.eq_zero_or_pos y.toNat
  · simp [zero]
  · rw [Nat.mod_eq_of_lt (Nat.sub_lt modN_pos pos), Nat.sub_sub_self reduced.le, Nat.mod_eq_of_lt reduced]

/-! The conditions of steps 4 and 5 (R176, R177), and where they lead. -/

theorem oppositePoints_iff {x1 y1 x2 y2 : Word} :
    oppositePoints x1 y1 x2 y2 = true ↔ x1 = x2 ∧ y2 = negY y1 := by
  simp [oppositePoints]

theorem unrelatedPoints_iff {x1 y1 x2 y2 : Word} :
    unrelatedPoints x1 y1 x2 y2 = true ↔ x1 = x2 ∧ y1 ≠ y2 ∧ y1 ≠ negY y2 := by
  simp [unrelatedPoints, and_assoc]

/-- Step 4 is the first test past validation. -/
theorem ecaddBothValid_of_opposite {x1 y1 x2 y2 : Word} (opposite : oppositePoints x1 y1 x2 y2 = true)
    (sampled : Budget) : ecaddBothValid x1 y1 x2 y2 sampled = .ok 0 0 := by
  rw [ecaddBothValid, if_pos opposite]

/-- Steps 4 and 5 test the negation of different points; for a reduced `y1` that is one test. -/
theorem oppositePoints_eq_false_of_unrelated {x1 y1 x2 y2 : Word} (reduced : y1.toNat < modN)
    (unrelated : unrelatedPoints x1 y1 x2 y2 = true) : oppositePoints x1 y1 x2 y2 = false := by
  obtain ⟨-, -, not_neg⟩ := unrelatedPoints_iff.1 unrelated
  refine Bool.eq_false_iff.2 fun opposite => ?_
  obtain ⟨-, rfl⟩ := oppositePoints_iff.1 opposite
  exact not_neg (negY_negY reduced).symm

theorem ecaddBothValid_of_unrelated {x1 y1 x2 y2 : Word} (reduced : y1.toNat < modN)
    (unrelated : unrelatedPoints x1 y1 x2 y2 = true) (sampled : Budget) :
    ecaddBothValid x1 y1 x2 y2 sampled = .fail .invalidSameXDifferentY sampled := by
  simp [ecaddBothValid, oppositePoints_eq_false_of_unrelated reduced unrelated, unrelated]

/-- Step 4 on words whose `y` are opposite as numbers. -/
theorem ecaddBothValid_of_neg {x y1 y2 : Word} (reduced : y1.toNat < modN)
    (neg : y2.toNat = (modN - y1.toNat) % modN) (sampled : Budget) : ecaddBothValid x y1 x y2 sampled = .ok 0 0 := by
  have y2_eq : y2 = negY y1 := BitVec.eq_of_toNat_eq (neg.trans (negY_toNat reduced).symm)
  exact ecaddBothValid_of_opposite (oppositePoints_iff.2 ⟨rfl, y2_eq⟩) sampled

/-! The commands. -/

/-- Settles O50: valid points reach step 4, which tests the exact negation before anything else. -/
theorem ecaddOfOpposites : Obligations.EcaddOfOpposites := by
  refine ⟨fun s x y1 y2 budget held valid1 valid2 neg => exec_ecadd_of_holdsPoints held ?_,
    fun x y1 y2 budget reduced neg => ecaddBothValid_of_neg reduced neg budget⟩
  obtain ⟨-, reduced, -⟩ := validPoint_iff.1 valid1
  calc ecadd x y1 x y2 budget = ecaddBothValid x y1 x y2 budget := ecadd_of_validPoint valid1 valid2 budget
    _ = .ok 0 0 := ecaddBothValid_of_neg reduced neg budget

/-- Settles O48: steps 1 and 2 of the decision tree; a valid point is not the infinity encoding. -/
theorem ecaddWithInfinity : Obligations.EcaddWithInfinity :=
  ⟨fun _ budget held => exec_ecadd_of_holdsPoints held (ecadd_of_isinf_both isinf_zero_zero isinf_zero_zero budget),
    fun _ _ _ budget held valid => exec_ecadd_of_holdsPoints held (ecadd_zero_left valid budget),
    fun _ _ _ budget held valid => exec_ecadd_of_holdsPoints held (ecadd_zero_right valid budget)⟩

/-- Settles O51: the word comparison with the negation is that of the integers, and negating twice gives a reduced `y`
back, so step 4 lets through what step 5 then fails. -/
theorem stepFiveBranch : Obligations.StepFiveBranch := by
  intro x1 y1 x2 y2 budget
  refine ⟨?_, fun reduced _ unrelated => ecaddBothValid_of_unrelated reduced unrelated budget⟩
  have neg_iff : y1 = negY y2 ↔ (y1.toNat : Int) = ((modN : Int) - y2.toNat) % modN := by
    rw [← negY_toNat_int, Nat.cast_inj, BitVec.toNat_eq]
  rw [unrelatedPoints_iff, ne_eq y1 (negY y2), neg_iff]

end Sys2Proof.Proofs

/-! The failure path of the Group Law dispatcher (43_group_law.md rules R173 to R175, 60_exceptions.md rule R203): what
a failure of ECADD's function leaves behind, and which words make a validation report which kind. -/

namespace Sys2Proof.Proofs

open Sys2Proof Sys2Proof.Machine

/-! The command (R72, R203). -/

/-- ECADD on held points, where the decision tree fails: the amount it fails with can only be the budget held. -/
theorem exec_ecadd_fail_of_holdsPoints {s : State} {x1 y1 x2 y2 : Word} {budget amount : Budget} {kind : ErrorKind}
    (held : holdsPoints x1 y1 x2 y2 budget s) (failed : ecadd x1 y1 x2 y2 budget = .fail kind amount) :
    exec .ecadd s = .next (afterFailure kind budget s) := by
  obtain rfl : amount = budget := ecadd_fail_amount failed
  obtain ⟨ended, hx1, hy1, hx2, hy2, hbudget⟩ := held
  have sampled : sampledOutcome .ecadd s = .ok (ecadd x1 y1 x2 y2 amount) :=
    samplePoints_of_held hx1 hy1 hx2 hy2 hbudget
  rw [exec_eq_issue, sampled, failed, issueCommand_ok ended]
  rfl

/-! What the validations report (R156, R174, R175). -/

theorem not_rangechk_iff {v : Word} : (!rangechk v) = true ↔ modN ≤ v.toNat := by
  rw [Bool.not_eq_true', ← Bool.not_eq_true, rangechk_iff, not_lt]

theorem oncurve_eq_false_of_invalid {x y : Word} (hx : x.toNat < modN) (hy : y.toNat < modN)
    (invalid : validPoint x y = false) : oncurve ⟨x⟩ ⟨y⟩ = false := by
  simpa [validPoint, rangechk_iff.2 hx, rangechk_iff.2 hy] using invalid

theorem validateOne_of_out_of_range {x y : Word} (out : modN ≤ x.toNat ∨ modN ≤ y.toNat) :
    validateOne x y = some .coordinateOutOfRange := by
  simp only [validateOne, not_rangechk_iff, ← ite_or]
  exact if_pos out

theorem validateOne_of_off_curve {x y : Word} (hx : x.toNat < modN) (hy : y.toNat < modN)
    (invalid : validPoint x y = false) : validateOne x y = some .pointNotOnCurve := by
  simp [validateOne, rangechk_iff.2 hx, rangechk_iff.2 hy, oncurve_eq_false_of_invalid hx hy invalid]

/-- The range checks of both points come first and all report the same kind, so their order does not show. -/
theorem validateBoth_of_out_of_range {x1 y1 x2 y2 : Word}
    (out : modN ≤ x1.toNat ∨ modN ≤ y1.toNat ∨ modN ≤ x2.toNat ∨ modN ≤ y2.toNat) :
    validateBoth x1 y1 x2 y2 = some .coordinateOutOfRange := by
  simp only [validateBoth, not_rangechk_iff, ← ite_or]
  exact if_pos out

theorem validateBoth_of_off_curve {x1 y1 x2 y2 : Word} (hx1 : x1.toNat < modN) (hy1 : y1.toNat < modN)
    (hx2 : x2.toNat < modN) (hy2 : y2.toNat < modN)
    (invalid : validPoint x1 y1 = false ∨ validPoint x2 y2 = false) :
    validateBoth x1 y1 x2 y2 = some .pointNotOnCurve := by
  have off_curve : oncurve ⟨x1⟩ ⟨y1⟩ = false ∨ oncurve ⟨x2⟩ ⟨y2⟩ = false :=
    invalid.imp (oncurve_eq_false_of_invalid hx1 hy1) (oncurve_eq_false_of_invalid hx2 hy2)
  simp only [validateBoth, not_rangechk_iff, hx1.not_ge, hy1.not_ge, hx2.not_ge, hy2.not_ge, if_false, ← ite_or]
  exact if_pos (by simpa using off_curve)

/-! Where steps 2 and 3 fail (R173, R174). -/

theorem isinf_eq_true_of_eq {x y : Word} (infinity : (x, y) = (0, 0)) : isinf x y = true := by
  obtain ⟨rfl, rfl⟩ := Prod.mk.inj infinity
  exact isinf_zero_zero

theorem isinf_eq_false_of_ne {x y : Word} (finite : (x, y) ≠ (0, 0)) : isinf x y = false := by
  simpa [isinf] using finite

/-- Step 2 fails, with infinity on the left. -/
theorem ecadd_fail_of_infinity_left {x1 y1 x2 y2 : Word} {kind : ErrorKind} (infinity : (x1, y1) = (0, 0))
    (finite : (x2, y2) ≠ (0, 0)) (reported : validateOne x2 y2 = some kind) (sampled : Budget) :
    ecadd x1 y1 x2 y2 sampled = .fail kind sampled := by
  rw [ecadd_of_isinf_left (isinf_eq_true_of_eq infinity) (isinf_eq_false_of_ne finite), ecaddOnePoint, reported]

/-- Step 2 fails, with infinity on the right. -/
theorem ecadd_fail_of_infinity_right {x1 y1 x2 y2 : Word} {kind : ErrorKind} (finite : (x1, y1) ≠ (0, 0))
    (infinity : (x2, y2) = (0, 0)) (reported : validateOne x1 y1 = some kind) (sampled : Budget) :
    ecadd x1 y1 x2 y2 sampled = .fail kind sampled := by
  rw [ecadd_of_isinf_right (isinf_eq_false_of_ne finite) (isinf_eq_true_of_eq infinity), ecaddOnePoint, reported]

/-- Step 3 fails. -/
theorem ecadd_fail_of_finite {x1 y1 x2 y2 : Word} {kind : ErrorKind} (finite1 : (x1, y1) ≠ (0, 0))
    (finite2 : (x2, y2) ≠ (0, 0)) (reported : validateBoth x1 y1 x2 y2 = some kind) (sampled : Budget) :
    ecadd x1 y1 x2 y2 sampled = .fail kind sampled := by
  simp [ecadd, isinf_eq_false_of_ne finite1, isinf_eq_false_of_ne finite2, reported]

/-- Settles O49: each failing case is what one validation of steps 2 and 3 reports, and a failure takes the failure path
with the whole budget whatever its kind. -/
theorem ecaddFailurePath : Obligations.EcaddFailurePath := by
  intro s x1 y1 x2 y2 budget held
  have fails {kind : ErrorKind} {amount : Budget} (failed : ecadd x1 y1 x2 y2 budget = .fail kind amount) :
      exec .ecadd s = .next (afterFailure kind budget s) := exec_ecadd_fail_of_holdsPoints held failed
  refine ⟨fun _ _ => fails, fun finite1 finite2 => ?step3, fun infinity finite => ?step2_left,
    fun finite infinity => ?step2_right⟩
  case step3 =>
    have fails_as {kind : ErrorKind} (reported : validateBoth x1 y1 x2 y2 = some kind) :=
      fails (ecadd_fail_of_finite finite1 finite2 reported budget)
    exact ⟨fun out => fails_as (validateBoth_of_out_of_range out),
      fun hx1 hy1 hx2 hy2 invalid => fails_as (validateBoth_of_off_curve hx1 hy1 hx2 hy2 invalid)⟩
  case step2_left =>
    have fails_as {kind : ErrorKind} (reported : validateOne x2 y2 = some kind) :=
      fails (ecadd_fail_of_infinity_left infinity finite reported budget)
    exact ⟨fun out => fails_as (validateOne_of_out_of_range out),
      fun hx hy invalid => fails_as (validateOne_of_off_curve hx hy invalid)⟩
  case step2_right =>
    have fails_as {kind : ErrorKind} (reported : validateOne x1 y1 = some kind) :=
      fails (ecadd_fail_of_infinity_right finite infinity reported budget)
    exact ⟨fun out => fails_as (validateOne_of_out_of_range out),
      fun hx hy invalid => fails_as (validateOne_of_off_curve hx hy invalid)⟩

end Sys2Proof.Proofs

/-! The error kind is invisible (60_exceptions.md rule R201). States observed alike differ in nothing but the kinds
their traces record (`exists_withTrace`). No decision of the model reads the trace, so hosts at the same place of the
same script take the same branch, and every operation adds the same events to both traces. -/

namespace Sys2Proof.Proofs

open Sys2Proof Sys2Proof.Machine

/-! The status word tells the whole status (R28). -/

theorem flagBit_eq (b : Bool) (position : Nat) : flagBit b position = b.toNat * 2 ^ position := by
  cases b <;> simp [flagBit]

theorem phaseCode_lt (p : Phase) : phaseCode p < 4 := by
  cases p <;> decide

theorem phaseCode_injective : Function.Injective phaseCode := by
  intro p p' same
  revert same
  cases p <;> cases p' <;> decide

theorem boolToNat_injective : Function.Injective Bool.toNat := by decide

/-- The fields of `STATUS` are the digits of its number: one of base 4, then four of base 2. -/
theorem statusWord_toNat (st : Status) :
    (statusWord st).toNat = phaseCode st.phase
      + 4 * (st.outv.toNat + 2 * (st.abort.toNat + 2 * (st.burnReq.toNat + 2 * st.illCmd.toNat))) := by
  have phase_lt := phaseCode_lt st.phase
  have outv_lt := st.outv.toNat_lt
  have abort_lt := st.abort.toNat_lt
  have burnReq_lt := st.burnReq.toNat_lt
  have illCmd_lt := st.illCmd.toNat_lt
  simp only [statusWord, flagBit_eq, BitVec.toNat_ofNat]
  omega

theorem digit_inj {base d d' n n' : Nat} (d_lt : d < base) (d_lt' : d' < base)
    (same : d + base * n = d' + base * n') : d = d' ∧ n = n' := by
  obtain rfl : d = d' := by
    simpa [Nat.add_mul_mod_self_left, Nat.mod_eq_of_lt, d_lt, d_lt'] using congrArg (· % base) same
  exact ⟨rfl, Nat.eq_of_mul_eq_mul_left (Nat.zero_lt_of_lt d_lt) (Nat.add_left_cancel same)⟩

theorem statusWord_injective : Function.Injective statusWord := by
  intro st st' same
  have digits := congrArg BitVec.toNat same
  rw [statusWord_toNat, statusWord_toNat] at digits
  obtain ⟨phase, digits⟩ := digit_inj (phaseCode_lt _) (phaseCode_lt _) digits
  obtain ⟨outv, digits⟩ := digit_inj (Bool.toNat_lt _) (Bool.toNat_lt _) digits
  obtain ⟨abort, digits⟩ := digit_inj (Bool.toNat_lt _) (Bool.toNat_lt _) digits
  obtain ⟨burnReq, illCmd⟩ := digit_inj (Bool.toNat_lt _) (Bool.toNat_lt _) digits
  cases st
  cases st'
  simp only [Status.mk.injEq]
  exact ⟨phaseCode_injective phase, boolToNat_injective outv, boolToNat_injective abort, boolToNat_injective burnReq,
    boolToNat_injective illCmd⟩

/-! States observed alike. -/

/-- Two states that show the host the same, with hosts at the same place of the same script. -/
structure ObservedAlike (s1 s2 : State) : Prop where
  observed : observe s1 = observe s2
  script : s1.script = s2.script
  line : s1.line = s2.line

/-- `s` with another trace. -/
def withTrace (trace : List Event) (s : State) : State := { s with trace := trace }

/-- The trace is the only field an observation does not show whole. -/
theorem ObservedAlike.exists_withTrace {s1 s2 : State} (alike : ObservedAlike s1 s2) :
    ∃ trace, s1.trace.map visibleEvent = trace.map visibleEvent ∧ s2 = withTrace trace s1 := by
  obtain ⟨observed, script, line⟩ := alike
  simp only [observe, Observation.mk.injEq] at observed
  obtain ⟨a0, a1, a2, a3, q0, q1, cmd, status_word, budget, burnAmt, trace, reads⟩ := observed
  have status := statusWord_injective status_word
  refine ⟨s2.trace, trace, ?_⟩
  cases s1
  cases s2
  simp only [withTrace, State.mk.injEq]
  exact ⟨a0.symm, a1.symm, a2.symm, a3.symm, q0.symm, q1.symm, cmd.symm, status.symm, budget.symm, burnAmt.symm,
    trivial, script.symm, line.symm, reads.symm⟩

section
variable {s1 s2 : State}

/-! What the model decides by is the same in both. -/

theorem ObservedAlike.status_eq (alike : ObservedAlike s1 s2) : s1.status = s2.status := by
  obtain ⟨_, -, rfl⟩ := alike.exists_withTrace
  rfl

theorem ObservedAlike.sampledOutcome_eq (alike : ObservedAlike s1 s2) (i : Instr) :
    sampledOutcome i s1 = sampledOutcome i s2 := by
  obtain ⟨_, -, rfl⟩ := alike.exists_withTrace
  cases i <;> rfl

theorem ObservedAlike.readIndex_eq (alike : ObservedAlike s1 s2) (index : RegIndex) :
    readIndex index s1 = readIndex index s2 := by
  obtain ⟨_, -, rfl⟩ := alike.exists_withTrace
  rfl

theorem ObservedAlike.reads_eq (alike : ObservedAlike s1 s2) : s1.reads = s2.reads := by
  obtain ⟨_, -, rfl⟩ := alike.exists_withTrace
  rfl

theorem ObservedAlike.scriptValue_eq (alike : ObservedAlike s1 s2) (v : Value) :
    scriptValue v s1 = scriptValue v s2 := by
  cases v with
  | lit n => rfl
  | lastRead => simp only [scriptValue, lastRead, alike.reads_eq]

theorem ObservedAlike.lastStatusRead_eq (alike : ObservedAlike s1 s2) : lastStatusRead s1 = lastStatusRead s2 := by
  simp only [lastStatusRead, alike.reads_eq]

theorem ObservedAlike.labelLine_eq (alike : ObservedAlike s1 s2) (target : Nat) :
    labelLine target s1.script = labelLine target s2.script := by
  rw [alike.script]

theorem ObservedAlike.fetchLine_eq (alike : ObservedAlike s1 s2) : fetchLine s1 = fetchLine s2 := by
  simp only [fetchLine, alike.script, alike.line]

/-! What the model changes, it changes alike. -/

theorem ObservedAlike.nextLine (alike : ObservedAlike s1 s2) : ObservedAlike (nextLine s1) (nextLine s2) :=
  ⟨alike.observed, alike.script, congrArg (· + 1) alike.line⟩

theorem ObservedAlike.atLine (alike : ObservedAlike s1 s2) (line : Nat) :
    ObservedAlike { s1 with line := line } { s2 with line := line } :=
  ⟨alike.observed, alike.script, rfl⟩

theorem ObservedAlike.resetEvent (alike : ObservedAlike s1 s2) : ObservedAlike (resetEvent s1) (resetEvent s2) := by
  obtain ⟨_, -, rfl⟩ := alike.exists_withTrace
  exact ⟨rfl, rfl, rfl⟩

theorem ObservedAlike.recordRead (alike : ObservedAlike s1 s2) (index : RegIndex) (v : Nat) :
    ObservedAlike (recordRead index v s1) (recordRead index v s2) := by
  obtain ⟨trace, same, rfl⟩ := alike.exists_withTrace
  exact ⟨by simp [observe, withTrace, same], rfl, rfl⟩

theorem ObservedAlike.writeData (alike : ObservedAlike s1 s2) (r : Option Reg) (data : Nat) :
    ObservedAlike (writeData r data s1) (writeData r data s2) := by
  obtain ⟨trace, same, rfl⟩ := alike.exists_withTrace
  unfold Machine.writeData
  split <;> exact ⟨by simp [observe, withTrace, same], rfl, rfl⟩

theorem ObservedAlike.startCommand (alike : ObservedAlike s1 s2) (code : Byte) :
    ObservedAlike (startCommand code s1) (startCommand code s2) := by
  obtain ⟨trace, same, rfl⟩ := alike.exists_withTrace
  exact ⟨by simp [observe, withTrace, same], rfl, rfl⟩

/-- Both traces get the events of the same outcome. -/
theorem ObservedAlike.completeCommand (alike : ObservedAlike s1 s2) (code : Byte) (out : CommandOutcome) :
    ObservedAlike (completeCommand code out s1) (completeCommand code out s2) := by
  obtain ⟨trace, same, rfl⟩ := alike.exists_withTrace
  cases out <;> exact ⟨by simp [observe, withTrace, Machine.completeCommand, same], rfl, rfl⟩

theorem ObservedAlike.issueReserved (alike : ObservedAlike s1 s2) (code : Byte) :
    ObservedAlike (issueReserved code s1) (issueReserved code s2) := by
  unfold Machine.issueReserved
  rw [alike.status_eq]
  split
  · exact alike
  · exact (alike.startCommand code).completeCommand code .illegal

/-! Steps end alike. -/

/-- Two outcomes the host cannot tell apart: next states observed alike, or the same refusal. -/
inductive EndAlike : Host.Outcome State Fault Refusal → Host.Outcome State Fault Refusal → Prop where
  | next {t1 t2 : State} (alike : ObservedAlike t1 t2) : EndAlike (.next t1) (.next t2)
  | refused (r : Refusal) : EndAlike (.refused r) (.refused r)

theorem ObservedAlike.exec (alike : ObservedAlike s1 s2) (i : Instr) : EndAlike (exec i s1) (exec i s2) := by
  rw [exec_eq_issue, exec_eq_issue, alike.sampledOutcome_eq]
  by_cases busy : s2.status.phase = .busy
  · rw [issueCommand_busy busy, issueCommand_busy (alike.status_eq ▸ busy)]
    exact .next alike
  · have idle : s1.status.phase ≠ .busy := alike.status_eq ▸ busy
    cases sampledOutcome i s2 with
    | error r =>
      rw [issueCommand_error idle, issueCommand_error busy]
      exact .refused r
    | ok out =>
      rw [issueCommand_ok idle, issueCommand_ok busy]
      exact .next ((alike.startCommand _).completeCommand _ out)

theorem ObservedAlike.writeCmd (alike : ObservedAlike s1 s2) (code : Byte) :
    EndAlike (writeCmd code s1) (writeCmd code s2) := by
  unfold Machine.writeCmd
  cases decode [code] with
  | ok i _ => exact alike.exec i
  | rejected _ => exact .next (alike.issueReserved code)

theorem ObservedAlike.hostWrite (alike : ObservedAlike s1 s2) (index : RegIndex) (data : Nat) :
    EndAlike (hostWrite index data s1) (hostWrite index data s2) := by
  unfold Machine.hostWrite
  rw [alike.status_eq]
  split_ifs
  · exact .next alike
  · exact alike.writeCmd _
  · exact .next (alike.writeData _ data)

theorem ObservedAlike.hostRead (alike : ObservedAlike s1 s2) (index : RegIndex) :
    EndAlike (hostRead index s1) (hostRead index s2) := by
  unfold Machine.hostRead
  rw [alike.readIndex_eq]
  cases readIndex index s2 with
  | error r => exact .refused r
  | ok v => exact .next (alike.recordRead index v)

theorem ObservedAlike.runTransaction (alike : ObservedAlike s1 s2) (t : Transaction) :
    EndAlike (runTransaction t s1) (runTransaction t s2) := by
  cases t with
  | write index data => exact alike.hostWrite index data
  | read index => exact alike.hostRead index

theorem ObservedAlike.runWrite (alike : ObservedAlike s1 s2) (index : RegIndex) (v : Value) :
    EndAlike (runWrite index v s1) (runWrite index v s2) := by
  unfold Machine.runWrite
  rw [alike.scriptValue_eq]
  cases scriptValue v s2 with
  | none => exact .refused _
  | some n => exact alike.nextLine.runTransaction _

theorem ObservedAlike.runWait (alike : ObservedAlike s1 s2) : EndAlike (runWait s1) (runWait s2) := by
  unfold Machine.runWait
  rw [alike.status_eq]
  split
  · exact alike.nextLine.runTransaction _
  · exact alike.runTransaction _

theorem ObservedAlike.runIfset (alike : ObservedAlike s1 s2) (field : StatusField) (target : Nat) :
    EndAlike (runIfset field target s1) (runIfset field target s2) := by
  unfold Machine.runIfset
  rw [alike.lastStatusRead_eq, alike.labelLine_eq]
  cases lastStatusRead s2 with
  | none => exact .refused _
  | some v =>
    dsimp only
    split_ifs
    · cases labelLine target s2.script with
      | none => exact .refused _
      | some k => exact .next (alike.atLine k)
    · exact .next alike.nextLine

theorem ObservedAlike.runLine (alike : ObservedAlike s1 s2) (l : HostLine) :
    EndAlike (runLine l s1) (runLine l s2) := by
  cases l with
  | wr index v => exact alike.runWrite index v
  | rd index => exact alike.nextLine.runTransaction (.read index)
  | command i => exact alike.nextLine.runTransaction (.write (regIndex .cmd) (instrCode i).toNat)
  | wait => exact alike.runWait
  | label name => exact .next alike.nextLine
  | ifset field target => exact alike.runIfset field target
  | halt => exact .next alike
  | reset => exact .next alike.nextLine.resetEvent

/-- Hosts at the same place of the same script run the same line. -/
theorem ObservedAlike.step (alike : ObservedAlike s1 s2) : EndAlike (step s1) (step s2) := by
  cases fetched : fetchLine s2 with
  | none =>
    rw [step_at_end fetched, step_at_end (alike.fetchLine_eq.trans fetched)]
    exact .next alike
  | some l =>
    rw [step_of_fetch fetched, step_of_fetch (alike.fetchLine_eq.trans fetched)]
    exact alike.runLine l

end

/-- Two failure paths from one state differ in the kind they record, and an observation leaves the kind out. -/
theorem observe_afterFailure (k1 k2 : ErrorKind) (amount : Budget) (s : State) :
    observe (afterFailure k1 amount s) = observe (afterFailure k2 amount s) := by
  simp [observe, afterFailure, visibleEvent]

/-- Settles O23: states observed alike are kept alike by every step, because no decision reads the trace. -/
theorem errorKindIsInvisible : Obligations.ErrorKindIsInvisible := by
  refine ⟨fun s k1 k2 amount => observe_afterFailure k1 k2 amount s, fun s1 s2 observed script line => ?_⟩
  have ends_alike : EndAlike (step s1) (step s2) := ObservedAlike.step ⟨observed, script, line⟩
  match step s1, step s2, ends_alike with
  | _, _, .next alike => exact ⟨alike.observed, alike.script, alike.line⟩
  | _, _, .refused _ => exact rfl

end Sys2Proof.Proofs

/-! The Montgomery representation (40_field_engine.md rules R98 to R109). A word stands for its residue `m * R^(-1)`
modulo `N`, and the Field Engine computes with residues: a reduced word is known by its residue, products, sums and
differences of words are those of their residues, and MONTEXP's loop keeps `pow * base ^ aux`. -/

namespace Sys2Proof.Proofs

open Sys2Proof Sys2Proof.Machine

/-! REDC (R98, R99). -/

/-- R99's carry: two words that add up to a multiple of `W` add up to `W` itself unless both are 0. -/
theorem redc_carry_eq (low : Word) :
    (low.toNat + redcMultiplier low * modN % W) / W = if low = 0 then 0 else 1 := by
  have cleared := W_dvd_low_add_multiple low
  have below := low.isLt
  have zero_iff : low = 0 ↔ low.toNat = 0 := BitVec.toNat_eq
  simp only [zero_iff]
  generalize redcMultiplier low * modN = qn at *
  unfold W at *
  split <;> omega

theorem redc_low_half_eq_zero (low : Word) : (low.toNat + redcMultiplier low * modN % W) % W = 0 := by
  rw [Nat.add_mod_mod]
  exact Nat.mod_eq_zero_of_dvd (W_dvd_low_add_multiple low)

/-- `W` is invertible modulo `N`, so only one reduced `S` has `S * W` congruent to `T`. -/
theorem mul_W_modEq_iff_eq_redc {low high : Word} (h : high.toNat < modN) {S : Nat} (reduced : S < modN) :
    S * W ≡ low.toNat + W * high.toNat [MOD modN] ↔ S = (redc low high).toNat := by
  constructor
  · intro congruent
    have same : S ≡ (redc low high).toNat [MOD modN] :=
      (modEq_mul_modRInv congruent).trans (modEq_mul_modRInv (redc_mul_W_modEq h)).symm
    exact same.eq_of_lt_of_lt reduced (redc_lt_modN h)
  · rintro rfl
    exact redc_mul_W_modEq h

/-- Settles O28: below its precondition `redc` divides by `W`. -/
theorem redcContract : Obligations.RedcContract := by
  intro s low high ended hlow hhigh high_lt
  exact ⟨_, exec_of_sampledOutcome_ok ended (sampleTwo_of_held hlow hhigh), redc_lt_modN high_lt,
    redc_toNat_of_high_lt high_lt⟩

/-- Settles O29: the facts of `W_dvd_low_add_multiple` and `redc_dividend` about `q = redcMultiplier low`. -/
theorem redcCarryFacts : Obligations.RedcCarryFacts := by
  intro low high
  exact ⟨redcMultiplier low, rfl, redc_low_half_eq_zero low, redc_carry_eq low, redc_dividend low high,
    fun high_lt => ⟨redcExactHigh_lt high_lt, redcHigh_toNat_of_high_lt high_lt,
      fun _ reduced => mul_W_modEq_iff_eq_redc high_lt reduced⟩⟩

/-! The two conversions over the numbers (R104). -/

theorem stdNat_montNat (x : Nat) : stdNat (montNat x) = x % modN := by
  have divided : x ≡ montNat x * modRInv [MOD modN] := modEq_mul_modRInv (Nat.mod_modEq _ _).symm
  exact divided.symm

theorem montNat_stdNat (m : Nat) : montNat (stdNat m) = m % modN := by
  have restored : stdNat m * W ≡ m [MOD modN] := by
    calc stdNat m * W ≡ m * modRInv * W [MOD modN] := (Nat.mod_modEq _ _).mul_right W
      _ = m * (W * modRInv) := by ring
      _ ≡ m * 1 [MOD modN] := W_mul_modRInv_modEq.mul_left m
      _ = m := Nat.mul_one m
  exact restored

theorem montNat_lt (x : Nat) : montNat x < modN := Nat.mod_lt _ modN_pos

theorem stdNat_lt (m : Nat) : stdNat m < modN := Nat.mod_lt _ modN_pos

theorem frommont_tomont_toNat (a : Word) : (frommont (tomont ⟨a⟩)).word.toNat = a.toNat % modN := by
  rw [frommont_word_toNat, tomont_word_toNat, stdNat_montNat, Nat.mod_mod]

/-- Settles O32: `W` and `RINV` cancel, in either order. -/
theorem montgomeryRoundTrip : Obligations.MontgomeryRoundTrip := by
  refine ⟨fun a reduced => ?_, frommont_tomont_toNat, fun m reduced => ?_⟩
  · refine congrArg Std.mk (BitVec.eq_of_toNat_eq ?_)
    exact (frommont_tomont_toNat a).trans (Nat.mod_eq_of_lt reduced)
  · refine congrArg Mont.mk (BitVec.eq_of_toNat_eq ?_)
    calc (tomont (frommont ⟨m⟩)).word.toNat = montNat (stdNat m.toNat % modN) :=
          frommont_word_toNat m ▸ tomont_word_toNat (frommont ⟨m⟩).word
      _ = m.toNat := by rw [Nat.mod_eq_of_lt (stdNat_lt _), montNat_stdNat, Nat.mod_eq_of_lt reduced]

/-! Residues. -/

/-- The residue modulo `N` that a Montgomery-form word stands for, `m * R^(-1)`. -/
def residue (m : Mont) : ZMod modN := m.word.toNat * modRInv

theorem cast_W_mul_modRInv : (W : ZMod modN) * modRInv = 1 := by
  exact_mod_cast (ZMod.natCast_eq_natCast_iff _ _ _).2 W_mul_modRInv_modEq

theorem cast_montNat (x : Nat) : (montNat x : ZMod modN) = x * W := by
  rw [montNat, ZMod.natCast_mod, Nat.cast_mul]

/-- A number below `N` is known by its residue class. -/
theorem eq_of_cast_eq {a b : Nat} (ha : a < modN) (hb : b < modN) (same : (a : ZMod modN) = b) : a = b :=
  ((ZMod.natCast_eq_natCast_iff _ _ _).1 same).eq_of_lt_of_lt ha hb

theorem cast_eq_residue_mul (m : Mont) : (m.word.toNat : ZMod modN) = residue m * W := by
  rw [residue, mul_assoc, mul_comm (modRInv : ZMod modN), cast_W_mul_modRInv, mul_one]

theorem residue_eq_of_toNat_eq_montNat {m : Word} {x : Nat} (encoded : m.toNat = montNat x) :
    residue ⟨m⟩ = x := by
  rw [residue, encoded, cast_montNat, mul_assoc, cast_W_mul_modRInv, mul_one]

/-- A reduced word is the Montgomery form of a number exactly when it stands for that number's residue. -/
theorem toNat_eq_montNat_iff {m : Mont} (reduced : m.word.toNat < modN) {x : Nat} :
    m.word.toNat = montNat x ↔ residue m = x := by
  refine ⟨residue_eq_of_toNat_eq_montNat, fun same => eq_of_cast_eq reduced (montNat_lt x) ?_⟩
  rw [cast_eq_residue_mul, same, cast_montNat]

theorem eq_of_residue_eq {a b : Mont} (ha : a.word.toNat < modN) (hb : b.word.toNat < modN)
    (same : residue a = residue b) : a = b := by
  refine congrArg Mont.mk (BitVec.eq_of_toNat_eq (eq_of_cast_eq ha hb ?_))
  rw [cast_eq_residue_mul, cast_eq_residue_mul, same]

theorem cast_eq_zero_iff {n : Nat} : (n : ZMod modN) = 0 ↔ n % modN = 0 := by
  rw [ZMod.natCast_eq_zero_iff, Nat.dvd_iff_mod_eq_zero]

theorem residue_eq_zero_iff {m : Mont} : residue m = 0 ↔ m.word.toNat % modN = 0 := by
  rw [← cast_eq_zero_iff]
  constructor
  · intro zero
    rw [cast_eq_residue_mul, zero, zero_mul]
  · intro zero
    rw [residue, zero, zero_mul]

/-! The Field Engine on residues. -/

theorem montmul_word_toNat_of_reduced {a b : Mont} (ha : a.word.toNat < modN) :
    (montmul a b).word.toNat = a.word.toNat * b.word.toNat * modRInv % modN :=
  montmul_word_toNat (Nat.mul_lt_mul'' ha b.word.isLt)

theorem montmul_reduced {a b : Mont} (ha : a.word.toNat < modN) : (montmul a b).word.toNat < modN := by
  rw [montmul_word_toNat_of_reduced ha]
  exact Nat.mod_lt _ modN_pos

theorem residue_montmul {a b : Mont} (ha : a.word.toNat < modN) :
    residue (montmul a b) = residue a * residue b := by
  rw [residue, montmul_word_toNat_of_reduced ha, ZMod.natCast_mod]
  push_cast [residue]
  ring

theorem addMont_reduced (a b : Mont) : (addMont a b).word.toNat < modN :=
  (wordModN_toNat _).trans_lt (Nat.mod_lt _ modN_pos)

theorem residue_addMont (a b : Mont) : residue (addMont a b) = residue a + residue b := by
  rw [residue, addMont, addmod, wordModN_toNat, ZMod.natCast_mod]
  push_cast [residue]
  ring

theorem cast_submod (a b : Word) : ((submod a b).toNat : ZMod modN) = a.toNat - b.toNat := by
  have exact_value := congrArg (Int.cast : Int → ZMod modN) (submod_toNat a b)
  rw [ZMod.intCast_mod] at exact_value
  exact_mod_cast exact_value

theorem subMont_reduced (a b : Mont) : (subMont a b).word.toNat < modN :=
  (wordModN_toNat _).trans_lt (Nat.mod_lt _ modN_pos)

theorem residue_subMont (a b : Mont) : residue (subMont a b) = residue a - residue b := by
  rw [residue, subMont, cast_submod, residue, residue, sub_mul]

theorem tomont_reduced (a : Std) : (tomont a).word.toNat < modN := by
  rw [tomont_word_toNat]
  exact montNat_lt _

theorem residue_tomont (a : Std) : residue (tomont a) = a.word.toNat := by
  rw [residue_eq_of_toNat_eq_montNat (tomont_word_toNat a.word), ZMod.natCast_mod]

theorem frommont_reduced (m : Mont) : (frommont m).word.toNat < modN := by
  rw [frommont_word_toNat]
  exact stdNat_lt _

theorem cast_frommont (m : Mont) : ((frommont m).word.toNat : ZMod modN) = residue m := by
  rw [frommont_word_toNat, stdNat, ZMod.natCast_mod, Nat.cast_mul, residue]

theorem montOne_reduced : montOne.toNat < modN := by
  rw [montOne_toNat]
  exact Nat.mod_lt _ modN_pos

theorem residue_montOne : residue ⟨montOne⟩ = 1 := by
  rw [residue, montOne_toNat, ZMod.natCast_mod, cast_W_mul_modRInv]

/-- Settles O34: each operation is that of the residues, and a reduced word is known by its residue. -/
theorem montgomeryAlgebra : Obligations.MontgomeryAlgebra := by
  intro x y a b hx hy ha hb
  have a_reduced : a.toNat < modN := ha ▸ montNat_lt _
  have b_reduced : b.toNat < modN := hb ▸ montNat_lt _
  have ra : residue ⟨a⟩ = (x.toNat : ZMod modN) := residue_eq_of_toNat_eq_montNat ha
  have rb : residue ⟨b⟩ = (y.toNat : ZMod modN) := residue_eq_of_toNat_eq_montNat hb
  have injective : a = b ↔ x = y := by
    constructor
    · rintro rfl
      exact BitVec.eq_of_toNat_eq (eq_of_cast_eq hx hy (ra.symm.trans rb))
    · rintro rfl
      exact BitVec.eq_of_toNat_eq (ha.trans hb.symm)
  have zero_iff : a = 0 ↔ x = 0 := by
    constructor
    · rintro rfl
      refine BitVec.eq_of_toNat_eq (eq_of_cast_eq hx modN_pos (ra.symm.trans ?_))
      exact residue_eq_zero_iff.2 (Nat.zero_mod _)
    · rintro rfl
      exact BitVec.eq_of_toNat_eq (ha.trans (by simp [montNat]))
  refine ⟨?_, ?_, ?_, injective, zero_iff, fun m below => ⟨stdNat m, stdNat_lt m, ?_⟩⟩
  · rw [toNat_eq_montNat_iff (montmul_reduced a_reduced), residue_montmul a_reduced, ra, rb, ZMod.natCast_mod,
      Nat.cast_mul]
  · rw [toNat_eq_montNat_iff (addMont_reduced _ _), residue_addMont, ra, rb, ZMod.natCast_mod, Nat.cast_add]
  · rw [toNat_eq_montNat_iff (subMont_reduced _ _), residue_subMont, ra, rb, ZMod.natCast_mod,
      Nat.cast_sub (by omega), Nat.cast_add, ZMod.natCast_self, add_zero]
  · rw [montNat_stdNat, Nat.mod_eq_of_lt below]

/-! MONTEXP's loop (R108, R109). -/

theorem expLoop_of_aux_zero {r : ExpRegs} (used_up : r.aux = 0) (fuel : Nat) : expLoop fuel r = r := by
  cases fuel <;> simp [expLoop, used_up]

theorem expLoop_succ_of_aux_ne_zero {r : ExpRegs} (left : r.aux ≠ 0) (fuel : Nat) :
    expLoop (fuel + 1) r = expLoop fuel (expPass r) := by
  rw [expLoop, if_neg left]

/-- Each pass takes one bit of the exponent. -/
theorem expLoop_uses_up_aux {fuel : Nat} {r : ExpRegs} (bits : r.aux.toNat < 2 ^ fuel) : (expLoop fuel r).aux = 0 := by
  induction fuel generalizing r with
  | zero => exact BitVec.eq_of_toNat_eq (Nat.lt_one_iff.1 bits)
  | succ fuel ih =>
    by_cases used_up : r.aux = 0
    · rwa [expLoop_of_aux_zero used_up]
    · rw [expLoop_succ_of_aux_ne_zero used_up]
      refine ih ?_
      rw [expPass, shr1_toNat]
      omega

/-- What every pass of MONTEXP's loop keeps: reduced registers, and the power still to come. -/
structure ExpInvariant (power : ZMod modN) (r : ExpRegs) : Prop where
  pow_reduced : r.pow.word.toNat < modN
  base_reduced : r.base.word.toNat < modN
  power_eq : residue r.pow * residue r.base ^ r.aux.toNat = power

theorem ExpInvariant.expPass {power : ZMod modN} {r : ExpRegs} (inv : ExpInvariant power r) :
    ExpInvariant power (expPass r) := by
  obtain ⟨pow_reduced, base_reduced, rfl⟩ := inv
  have square : residue (montmul r.base r.base) = residue r.base ^ 2 := by
    rw [residue_montmul base_reduced, pow_two]
  cases parity : bit0 r.aux with
  | true =>
    have odd := bit0_eq_true_iff.1 parity
    have exponent : r.aux.toNat = 1 + 2 * (r.aux.toNat / 2) := by omega
    refine ⟨?_, montmul_reduced base_reduced, ?_⟩ <;> simp only [Machine.expPass, parity, if_true, shr1_toNat]
    · exact montmul_reduced pow_reduced
    · rw [residue_montmul pow_reduced, square, ← pow_mul, mul_assoc, ← pow_succ', add_comm _ 1, ← exponent]
  | false =>
    have even := bit0_eq_false_iff.1 parity
    have exponent : r.aux.toNat = 2 * (r.aux.toNat / 2) := by omega
    refine ⟨?_, montmul_reduced base_reduced, ?_⟩ <;> simp only [Machine.expPass, parity, shr1_toNat]
    · exact pow_reduced
    · rw [square, ← pow_mul, ← exponent]
      rfl

theorem ExpInvariant.expLoop {power : ZMod modN} {fuel : Nat} {r : ExpRegs} (inv : ExpInvariant power r) :
    ExpInvariant power (expLoop fuel r) := by
  induction fuel generalizing r with
  | zero => exact inv
  | succ fuel ih =>
    by_cases used_up : r.aux = 0
    · rwa [expLoop_of_aux_zero used_up]
    · rw [expLoop_succ_of_aux_ne_zero used_up]
      exact ih inv.expPass

/-- The loop's accumulator for a reduced base: 256 passes use up any exponent. -/
theorem montexp_spec {base e : Word} (reduced : base.toNat < modN) :
    (montexp ⟨base⟩ e).word.toNat < modN ∧ residue (montexp ⟨base⟩ e) = residue ⟨base⟩ ^ e.toNat := by
  have start : ExpInvariant (residue ⟨base⟩ ^ e.toNat) { pow := ⟨montOne⟩, aux := e, base := ⟨base⟩ } :=
    ⟨montOne_reduced, reduced, by rw [residue_montOne, one_mul]⟩
  obtain ⟨pow_reduced, -, power_eq⟩ := start.expLoop (fuel := Config.expMaxIter)
  rw [expLoop_uses_up_aux e.isLt, show (0 : Word).toNat = 0 from rfl, pow_zero, mul_one] at power_eq
  exact ⟨pow_reduced, power_eq⟩

/-- Settles O35: the loop uses up the exponent and keeps `pow * base ^ aux`. -/
theorem montexpResult : Obligations.MontexpResult := by
  intro s base e ended hbase he
  refine ⟨(montexp ⟨base⟩ e).word, exec_of_sampledOutcome_ok ended (sampleTwo_of_held hbase he),
    expLoop_uses_up_aux e.isLt, rfl, ?_, fun reduced => ?_⟩
  · rintro rfl
    have start := expLoop_of_aux_zero (r := { pow := ⟨montOne⟩, aux := 0, base := ⟨base⟩ }) rfl Config.expMaxIter
    exact congrArg (·.pow.word) start
  · obtain ⟨pow_reduced, power_eq⟩ := montexp_spec (e := e) reduced
    rw [toNat_eq_montNat_iff pow_reduced, power_eq, ZMod.natCast_mod, Nat.cast_pow, stdNat, ZMod.natCast_mod,
      Nat.cast_mul]
    rfl

end Sys2Proof.Proofs

/-! The commands of the Modular Inverse Engine (41_inverse_engine.md rules R131 to R142): the loop's bounds, the
residues that MONTINV and MONTDIV answer, and the operands on which their loop never ends. -/

namespace Sys2Proof.Proofs

open Sys2Proof Sys2Proof.Machine

/-- Settles O36: exact halving, and `SPARE` leaves the addition room. -/
theorem halvingAnAccumulator : Obligations.HalvingAnAccumulator := by
  intro x reduced
  have sum_fits : x.toNat + modN < W := by
    have fits := two_modN_lt_W
    omega
  refine ⟨halveAcc_toNat reduced, halveAcc_lt_modN reduced, ?_, BitVec.eq_of_toNat_eq ?_⟩
  · exact Eq.trans (two_mul_halveAcc_modEq reduced) (Nat.mod_eq_of_lt reduced)
  · rw [carry256_toNat, constN_toNat, Nat.div_eq_of_lt sum_fits]
    rfl

/-- Settles O37: R135's invariants hold at the load, and a pass keeps them. -/
theorem inverseLoopKeepsInvariant : Obligations.InverseLoopKeepsInvariant :=
  fun base => ⟨invLoad_has_invariant base, fun _ _ inv running pass => invPass_keeps_invariant inv running pass⟩

/-! The bounds on the outer iterations (R139). -/

theorem invBits_invLoad (base : Word) : invBits (invLoad ⟨base⟩) = Nat.log 2 base.toNat + Nat.log 2 modN := by
  rw [← constN_toNat]
  rfl

theorem log_modN_le : Nat.log 2 modN ≤ 253 := Nat.le_of_lt_succ (Nat.log_lt_of_lt_pow' (by decide) modN_bounds.2)

theorem invLoop_isSome_of_bits {base : Word} {fuel : Nat} (nonzero : base.toNat % modN ≠ 0)
    (bits : Nat.log 2 base.toNat + 253 < fuel) : (invLoop fuel (invLoad ⟨base⟩)).isSome = true := by
  have enough : invBits (invLoad ⟨base⟩) < fuel :=
    invBits_invLoad base ▸ (Nat.add_le_add_left log_modN_le _).trans_lt bits
  obtain ⟨r, ended, -⟩ := invLoop_ends nonzero (invLoad_has_invariant base) enough
  exact Option.isSome_of_eq_some ended

/-- Settles O38: a pass for each bit of the operand and of `N`, and one more. -/
theorem inverseWithinItsBounds : Obligations.InverseWithinItsBounds := by
  refine ⟨fun base pos reduced => ?_, fun base nonzero => ?_⟩
  · have bits : Nat.log 2 base.toNat < 254 := Nat.log_lt_of_lt_pow' (by decide) (reduced.trans modN_bounds.2)
    exact invLoop_isSome_of_bits (by rw [Nat.mod_eq_of_lt reduced]; omega) (by omega)
  · have bits : Nat.log 2 base.toNat < 256 := Nat.log_lt_of_lt_pow' (by decide) base.isLt
    exact invLoop_isSome_of_bits nonzero (by omega)

/-! Which inversions end (R136, R137). -/

/-- The loop answers only registers that meet its end test, with R135's invariants. -/
theorem invLoop_spec {base fuel : Nat} {r r' : InvRegs} (inv : InverseLoopInvariant base r)
    (ended : invLoop fuel r = some r') : InverseLoopInvariant base r' ∧ invDone r' = true := by
  induction fuel generalizing r with
  | zero =>
    simp only [invLoop, Option.ite_none_right_eq_some, Option.some.injEq] at ended
    obtain ⟨done, rfl⟩ := ended
    exact ⟨inv, done⟩
  | succ fuel ih =>
    cases running : invDone r with
    | true =>
      obtain rfl := Option.some.inj ((invLoop_of_done running _).symm.trans ended)
      exact ⟨inv, running⟩
    | false =>
      cases pass : invPass r with
      | none => simp [invLoop, running, pass] at ended
      | some next =>
        rw [invLoop_succ_of_pass running pass] at ended
        exact ih (invPass_keeps_invariant inv running pass) ended

/-- A register that is 1 leaves the operand no divisor in common with `N`. -/
theorem not_multiple_of_done {base : Nat} {r : InvRegs} (inv : InverseLoopInvariant base r)
    (done : invDone r = true) : base % modN ≠ 0 := by
  obtain ⟨-, -, gcd, -⟩ := inverseLoopInvariant_iff.1 inv
  have coprime : Nat.gcd base modN = 1 := by
    rw [← gcd]
    obtain u_eq_one | v_eq_one := invDone_iff.1 done
    · rw [u_eq_one]
      exact Nat.gcd_one_left _
    · rw [v_eq_one]
      exact Nat.gcd_one_right _
  intro multiple
  rw [Nat.gcd_eq_right (Nat.dvd_of_mod_eq_zero multiple)] at coprime
  exact one_lt_modN.ne' coprime

theorem montinv_of_multiple {base : Word} (multiple : base.toNat % modN = 0) : montinv ⟨base⟩ = none := by
  unfold montinv
  split
  · rfl
  · next r ended =>
    obtain ⟨inv, done⟩ := invLoop_spec (invLoad_has_invariant base) ended
    exact absurd multiple (not_multiple_of_done inv done)

/-! The residues answered (R136, R138, R141). -/

theorem residue_mul_of_inverse {base q : Word} (inverse : base.toNat * q.toNat ≡ constR2.toNat [MOD modN]) :
    residue ⟨base⟩ * residue ⟨q⟩ = 1 := by
  have product : (base.toNat : ZMod modN) * q.toNat = W * W := by
    exact_mod_cast (ZMod.natCast_eq_natCast_iff _ _ _).2 (inverse.trans constR2_modEq)
  calc residue ⟨base⟩ * residue ⟨q⟩ = base.toNat * q.toNat * (modRInv * modRInv) := mul_mul_mul_comm _ _ _ _
    _ = W * modRInv * (W * modRInv) := by rw [product, mul_mul_mul_comm]
    _ = 1 := by rw [cast_W_mul_modRInv, mul_one]

theorem montmul_comm (a b : Mont) : montmul a b = montmul b a := by
  rw [montmul, montmul, mulw_comm]

/-- MONTDIV ends for every divisor that is not a multiple of `N`, with a reduced word that stands for the quotient. -/
theorem montdiv_ends {x y : Mont} (nonzero : residue y ≠ 0) :
    ∃ q : Mont, montdiv x y = some q ∧ q.word.toNat < modN ∧ residue q * residue y = residue x := by
  obtain ⟨i, ended, reduced, inverse⟩ := montinv_ends (mt residue_eq_zero_iff.2 nonzero)
  refine ⟨montmul x ⟨i⟩, by simp [montdiv, ended], ?_, ?_⟩ <;> rw [montmul_comm]
  · exact montmul_reduced reduced
  · rw [residue_montmul reduced, mul_comm (residue ⟨i⟩), mul_assoc, mul_comm (residue ⟨i⟩),
      residue_mul_of_inverse inverse, mul_one]

theorem montdiv_of_multiple {x y : Mont} (multiple : y.word.toNat % modN = 0) : montdiv x y = none := by
  simp [montdiv, montinv_of_multiple multiple]

theorem cast_stdNat (m : Word) : (stdNat m.toNat : ZMod modN) = residue ⟨m⟩ := by
  rw [stdNat, ZMod.natCast_mod, Nat.cast_mul, residue]

/-! The commands. -/

/-- A command whose loop never ends stays BUSY (R137). -/
theorem exec_of_sampledOutcome_diverge {i : Instr} {s : State} (ended : runEnded s)
    (diverges : sampledOutcome i s = .ok .diverge) : exec i s = .next (afterHang (instrCode i) s) := by
  rw [exec_eq_issue, diverges, issueCommand_ok ended]
  rfl

theorem sampledOutcome_montinv {s : State} {base : Word} (hbase : s.a0 = some base) :
    sampledOutcome .montinv s = .ok (okOrDiverge ((montinv ⟨base⟩).map Mont.word)) :=
  sampleOne_of_held hbase

theorem sampledOutcome_montdiv {s : State} {x y : Word} (hx : s.a0 = some x) (hy : s.a1 = some y) :
    sampledOutcome .montdiv s = .ok (okOrDiverge ((montdiv ⟨x⟩ ⟨y⟩).map Mont.word)) :=
  sampleTwo_of_held hx hy

/-- Settles O41: an inversion that ends shows the operand is no multiple of `N`. -/
theorem montinvOfZeroHangs : Obligations.MontinvOfZeroHangs := by
  intro s base ended hbase multiple
  refine exec_of_sampledOutcome_diverge ended ?_
  rw [sampledOutcome_montinv hbase, montinv_of_multiple multiple]
  rfl

/-- Settles O39: the engine's word is `R2` times the operand's inverse, and the residues of the two are inverse. -/
theorem montinvResult : Obligations.MontinvResult := by
  intro s base ended hbase nonzero
  obtain ⟨q, answered, reduced, inverse⟩ := montinv_ends nonzero
  have product : q.toNat * base.toNat % modN = constR2.toNat := by
    have R2_reduced : constR2.toNat < modN := constR2_toNat ▸ Nat.mod_lt _ modN_pos
    rw [Nat.mul_comm]
    exact Eq.trans inverse (Nat.mod_eq_of_lt R2_reduced)
  have pos : 1 ≤ q.toNat := by
    have R2_ne_zero : 0 ≠ constR2.toNat := by decide +kernel
    refine Nat.one_le_iff_ne_zero.2 fun zero => R2_ne_zero ?_
    rw [← product, zero, Nat.zero_mul, Nat.zero_mod]
  refine ⟨q, exec_of_sampledOutcome_ok ended ?_, pos, reduced, product, montmul_of_inverse reduced inverse,
    fun x _ encoded => ⟨stdNat q.toNat, stdNat_lt _, ?_, ?_⟩⟩
  · rw [sampledOutcome_montinv hbase, answered]
    rfl
  · refine eq_of_cast_eq (Nat.mod_lt _ modN_pos) one_lt_modN ?_
    rw [ZMod.natCast_mod, Nat.cast_mul, cast_stdNat, ← residue_eq_of_toNat_eq_montNat encoded,
      residue_mul_of_inverse inverse, Nat.cast_one]
  · exact (toNat_eq_montNat_iff reduced).2 (cast_stdNat q).symm

/-- Settles O42: the quotient of the residues, for a divisor whose residue is not 0. -/
theorem montdivResult : Obligations.MontdivResult := by
  intro s x y ended hx hy
  refine ⟨fun nonzero => ?_, fun multiple => exec_of_sampledOutcome_diverge ended ?_⟩
  · obtain ⟨⟨q⟩, answered, reduced, quotient⟩ := montdiv_ends (x := ⟨x⟩) (mt residue_eq_zero_iff.1 nonzero)
    refine ⟨q, exec_of_sampledOutcome_ok ended ?_, reduced, ?_, fun x' y' x'_lt _ hx' hy' =>
      ⟨stdNat q.toNat, stdNat_lt _, ?_, (toNat_eq_montNat_iff reduced).2 (cast_stdNat q).symm⟩⟩
    · rw [sampledOutcome_montdiv hx hy, answered]
      rfl
    · refine eq_of_cast_eq (Nat.mod_lt _ modN_pos) (montNat_lt _) ?_
      rw [ZMod.natCast_mod, Nat.cast_mul, cast_montNat, cast_eq_residue_mul ⟨q⟩, cast_eq_residue_mul ⟨y⟩,
        cast_eq_residue_mul ⟨x⟩, ← quotient]
      ring
    · refine eq_of_cast_eq (Nat.mod_lt _ modN_pos) x'_lt ?_
      rw [ZMod.natCast_mod, Nat.cast_mul, cast_stdNat, ← residue_eq_of_toNat_eq_montNat hx',
        ← residue_eq_of_toNat_eq_montNat hy', mul_comm, quotient]
  · rw [sampledOutcome_montdiv hx hy, montdiv_of_multiple multiple]
    rfl

end Sys2Proof.Proofs

/-! The curve over the field of residues (42_curve_validator.md rule R157). `N` is prime, so the residues are a field;
that no valid point has a zero coordinate is that 3 is no square and -3 no cube there, by the test of Euler and
Fermat. -/

namespace Sys2Proof.Proofs

open Sys2Proof Sys2Proof.Machine

/-! Residues as a field. -/

theorem modN_prime_fact : Fact (Nat.Prime modN) := ⟨Laws.modN_prime⟩

theorem cast_toNat_inj {x y : Word} (hx : x.toNat < modN) (hy : y.toNat < modN) :
    (x.toNat : ZMod modN) = y.toNat ↔ x = y :=
  ⟨fun same => BitVec.eq_of_toNat_eq (eq_of_cast_eq hx hy same), fun same => same ▸ rfl⟩

theorem cast_toNat_ne_zero {x : Word} (hx : x.toNat < modN) (nonzero : x ≠ 0) : (x.toNat : ZMod modN) ≠ 0 := by
  intro zero
  exact nonzero ((cast_toNat_inj hx (y := 0) modN_pos).1 (zero.trans Nat.cast_zero.symm))

/-- A `k`-th power has order dividing `(N - 1) / k`. -/
theorem pow_ne_of_powMod_ne_one {k a : Nat} (hk : k ∣ modN - 1)
    (test : Laws.powMod modN 256 a ((modN - 1) / k) 1 ≠ 1) {z : ZMod modN} (nonzero : z ≠ 0) : z ^ k ≠ a := by
  have := modN_prime_fact
  intro power
  have order : (a : ZMod modN) ^ ((modN - 1) / k) = 1 := by
    rw [← power, ← pow_mul, Nat.mul_div_cancel' hk, ZMod.pow_card_sub_one_eq_one nonzero]
  have exponent_lt : (modN - 1) / k < 2 ^ 256 :=
    (Nat.div_le_self _ _).trans_lt ((Nat.sub_le _ _).trans_lt (modN_bounds.2.trans (by decide)))
  refine test ?_
  rw [Laws.powMod_eq _ _ _ _ _ exponent_lt, one_mul]
  refine eq_of_cast_eq (Nat.mod_lt _ modN_pos) one_lt_modN ?_
  rw [ZMod.natCast_mod, Nat.cast_pow, order, Nat.cast_one]

theorem square_ne_three {z : ZMod modN} (nonzero : z ≠ 0) : z ^ 2 ≠ (3 : Nat) :=
  pow_ne_of_powMod_ne_one (by decide +kernel) (by decide +kernel) nonzero

theorem cube_ne_neg_three {z : ZMod modN} (nonzero : z ≠ 0) : z ^ 3 ≠ (modN - 3 : Nat) :=
  pow_ne_of_powMod_ne_one (by decide +kernel) (by decide +kernel) nonzero

/-! Valid points (R156). -/

theorem validPoint_iff_residues {x y : Word} :
    validPoint x y = true
      ↔ x.toNat < modN ∧ y.toNat < modN ∧ (y.toNat : ZMod modN) ^ 2 = (x.toNat : ZMod modN) ^ 3 + 3 := by
  have equation : (y.toNat : ZMod modN) ^ 2 = (x.toNat : ZMod modN) ^ 3 + 3
      ↔ y.toNat ^ 2 % modN = (x.toNat ^ 3 + 3) % modN := by
    rw [← ZMod.natCast_eq_natCast_iff']
    push_cast
    rfl
  rw [validPoint_iff, equation]

theorem cast_three_ne_zero : (3 : ZMod modN) ≠ 0 := by
  have not_multiple : (3 : Nat) % modN ≠ 0 := by decide +kernel
  exact_mod_cast mt cast_eq_zero_iff.1 not_multiple

theorem validPoint_y_ne_zero {x y : Word} (valid : validPoint x y = true) : y ≠ 0 := by
  rintro rfl
  obtain ⟨-, -, on⟩ := validPoint_iff_residues.1 valid
  have cube : (x.toNat : ZMod modN) ^ 3 = -3 := by
    refine eq_neg_of_add_eq_zero_left (on.symm.trans ?_)
    rw [show (0 : Word).toNat = 0 from rfl, Nat.cast_zero, zero_pow two_ne_zero]
  have x_ne_zero : (x.toNat : ZMod modN) ≠ 0 := by
    intro zero
    rw [zero, zero_pow three_ne_zero, eq_comm, neg_eq_zero] at cube
    exact cast_three_ne_zero cube
  refine cube_ne_neg_three x_ne_zero ?_
  rw [cube, Nat.cast_sub (by decide +kernel), ZMod.natCast_self, zero_sub, Nat.cast_ofNat]

theorem validPoint_x_ne_zero {x y : Word} (valid : validPoint x y = true) : x ≠ 0 := by
  rintro rfl
  obtain ⟨-, reduced, on⟩ := validPoint_iff_residues.1 valid
  refine square_ne_three (cast_toNat_ne_zero reduced (validPoint_y_ne_zero valid)) ?_
  rw [on, show (0 : Word).toNat = 0 from rfl, Nat.cast_zero, zero_pow three_ne_zero, zero_add, Nat.cast_ofNat]

theorem validPoint_y_pos {x y : Word} (valid : validPoint x y = true) : 0 < y.toNat :=
  Nat.pos_of_ne_zero fun zero => validPoint_y_ne_zero valid (BitVec.eq_of_toNat_eq zero)

/-! Negation on the curve (R176). -/

theorem cast_negY (y : Word) : ((negY y).toNat : ZMod modN) = -y.toNat := by
  rw [negY, cast_submod, show (0 : Word).toNat = 0 from rfl, Nat.cast_zero, zero_sub]

theorem negY_reduced (y : Word) : (negY y).toNat < modN :=
  (wordModN_toNat _).trans_lt (Nat.mod_lt _ modN_pos)

/-- For a valid point the negation is `N - y` itself. -/
theorem negY_toNat_of_validPoint {x y : Word} (valid : validPoint x y = true) :
    (negY y).toNat = modN - y.toNat := by
  obtain ⟨-, reduced, -⟩ := validPoint_iff.1 valid
  rw [negY_toNat reduced, Nat.mod_eq_of_lt (Nat.sub_lt modN_pos (validPoint_y_pos valid))]

theorem negY_ne_self {x y : Word} (valid : validPoint x y = true) : negY y ≠ y := by
  intro same
  have doubled := negY_toNat_of_validPoint valid
  rw [same] at doubled
  have pos := validPoint_y_pos valid
  have odd := modN_odd
  omega

theorem validPoint_negY {x y : Word} (valid : validPoint x y = true) : validPoint x (negY y) = true := by
  obtain ⟨hx, -, on⟩ := validPoint_iff_residues.1 valid
  rw [validPoint_iff_residues, cast_negY, neg_sq]
  exact ⟨hx, negY_reduced y, on⟩

/-- Two square roots of one residue are equal or opposite. -/
theorem eq_or_eq_negY_of_validPoint {x y y' : Word} (valid : validPoint x y = true)
    (valid' : validPoint x y' = true) : y' = y ∨ y' = negY y := by
  have := modN_prime_fact
  obtain ⟨-, reduced, on⟩ := validPoint_iff_residues.1 valid
  obtain ⟨-, reduced', on'⟩ := validPoint_iff_residues.1 valid'
  obtain same | opposite := sq_eq_sq_iff_eq_or_eq_neg.1 (on'.trans on.symm)
  · exact .inl ((cast_toNat_inj reduced' reduced).1 same)
  · exact .inr ((cast_toNat_inj reduced' (negY_reduced y)).1 (opposite.trans (cast_negY y).symm))

/-- Settles O47: `y` is not 0 because -3 is no cube, `x` because 3 is no square, and the roots of one square are
opposite. -/
theorem validPointFacts : Obligations.ValidPointFacts := by
  intro x y y' valid
  refine ⟨validPoint_y_ne_zero valid, validPoint_x_ne_zero valid, fun valid' => ?_, fun same => ?_⟩
  · obtain same | opposite := eq_or_eq_negY_of_validPoint valid valid'
    · exact .inl same
    · exact .inr (opposite ▸ negY_toNat_of_validPoint valid)
  · exact negY_ne_self valid (BitVec.eq_of_toNat_eq ((negY_toNat_of_validPoint valid).trans same.symm))

end Sys2Proof.Proofs

/-! The group law on residues (43_group_law.md rules R178 to R188). Both datapaths of ECADD end in the chord formula,
and for two valid points one of three ways through steps 4 to 7 is taken; so every success is infinity or a point on
the line through the two operands, which is on the curve again. -/

namespace Sys2Proof.Proofs

open Sys2Proof Sys2Proof.Machine

/-! The chord formula (R178, R179). -/

/-- The words of `p` are the third point of the line through `(x1, y1)` with slope `lam`, mirrored, where `x2` is the
other abscissa of that line. -/
structure OnChord (lam x1 x2 y1 : ZMod modN) (p : Std × Std) : Prop where
  x_reduced : p.1.word.toNat < modN
  y_reduced : p.2.word.toNat < modN
  x_eq : (p.1.word.toNat : ZMod modN) = lam ^ 2 - x1 - x2
  y_eq : (p.2.word.toNat : ZMod modN) = lam * (x1 - p.1.word.toNat) - y1

theorem chord_onChord {lam xsum x y : Mont} {x2 : ZMod modN} (reduced : lam.word.toNat < modN)
    (sum : residue xsum = residue x + x2) :
    OnChord (residue lam) (residue x) x2 (residue y) (chord lam xsum x y) where
  x_reduced := frommont_reduced _
  y_reduced := frommont_reduced _
  x_eq := by
    rw [chord, cast_frommont, residue_subMont, residue_montmul reduced, sum]
    ring
  y_eq := by
    rw [chord, cast_frommont, cast_frommont, residue_subMont (montmul _ _), residue_montmul reduced,
      residue_subMont x]

/-- The words of a chord are known by their residues. -/
theorem OnChord.eq {lam x1 x2 y1 x1' x2' y1' : ZMod modN} {p p' : Std × Std} (h : OnChord lam x1 x2 y1 p)
    (h' : OnChord lam x1' x2' y1' p') (sum : x1 + x2 = x1' + x2')
    (line : lam * x1 - y1 = lam * x1' - y1') : p = p' := by
  obtain ⟨x_lt, y_lt, x_eq, y_eq⟩ := h
  obtain ⟨x_lt', y_lt', x_eq', y_eq'⟩ := h'
  have same_x : (p.1.word.toNat : ZMod modN) = p'.1.word.toNat := by
    rw [x_eq, x_eq', sub_sub, sub_sub, sum]
  have same_y : (p.2.word.toNat : ZMod modN) = p'.2.word.toNat := by
    rw [y_eq, y_eq', same_x]
    linear_combination line
  have words : p.1.word = p'.1.word ∧ p.2.word = p'.2.word :=
    ⟨(cast_toNat_inj x_lt x_lt').1 same_x, (cast_toNat_inj y_lt y_lt').1 same_y⟩
  obtain ⟨⟨x3⟩, ⟨y3⟩⟩ := p
  obtain ⟨rfl, rfl⟩ := words
  rfl

/-- A line meets the cubic in three points whose abscissae add up to `lam ^ 2`. If `(x1, y1)` and the point of
abscissa `x2` are two of them, which for a tangent at `(x1, y1)` is `x2 = x1`, then the chord's words are the third,
mirrored. -/
theorem OnChord.validPoint {lam x1 x2 y1 : ZMod modN} {p : Std × Std} (h : OnChord lam x1 x2 y1 p)
    (on : y1 ^ 2 = x1 ^ 3 + 3) (slope : lam * (2 * y1 + lam * (x2 - x1)) = x1 ^ 2 + x1 * x2 + x2 ^ 2) :
    validPoint p.1.word p.2.word = true := by
  obtain ⟨x_lt, y_lt, x_eq, y_eq⟩ := h
  refine validPoint_iff_residues.2 ⟨x_lt, y_lt, ?_⟩
  rw [y_eq, x_eq]
  linear_combination on + (lam ^ 2 - x1 - x2 - x1) * slope

/-! The two datapaths (R178, R179). Each is unfolded as a function, before it is applied: unfolded at its operands, the
equation would have the kernel evaluate the division. -/

theorem doublePoint_eq {x y : Std} {lam : Mont}
    (slope : montdiv (addMont (montmul (tomont x) (tomont x))
        (addMont (montmul (tomont x) (tomont x)) (montmul (tomont x) (tomont x)))) (addMont (tomont y) (tomont y))
      = some lam) :
    doublePoint x y = some (chord lam (addMont (tomont x) (tomont x)) (tomont x) (tomont y)) := by
  refine Eq.subst (motive := fun f => f x y = _) (by delta doublePoint; rfl : _ = doublePoint) ?_
  simp only [slope]

theorem addPoints_eq {x1 y1 x2 y2 : Std} {lam : Mont}
    (slope : montdiv (subMont (tomont y2) (tomont y1)) (subMont (tomont x2) (tomont x1)) = some lam) :
    addPoints x1 y1 x2 y2 = some (chord lam (addMont (tomont x1) (tomont x2)) (tomont x1) (tomont y1)) := by
  refine Eq.subst (motive := fun f => f x1 y1 x2 y2 = _) (by delta addPoints; rfl : _ = addPoints) ?_
  simp only [slope]

/-- `2 * y` is not 0, because `N` is odd. -/
theorem double_y_ne_zero {x y : Word} (valid : validPoint x y = true) :
    (y.toNat : ZMod modN) + y.toNat ≠ 0 := by
  intro zero
  obtain ⟨-, reduced, -⟩ := validPoint_iff.1 valid
  refine negY_ne_self valid ((cast_toNat_inj (negY_reduced y) reduced).1 ?_)
  rw [cast_negY, neg_eq_of_add_eq_zero_left zero]

theorem doublePoint_of_validPoint {x y : Word} (valid : validPoint x y = true) :
    ∃ (lam : Nat) (p : Std × Std), doublePoint ⟨x⟩ ⟨y⟩ = some p ∧ lam < modN
      ∧ (lam : ZMod modN) * (2 * y.toNat) = 3 * (x.toNat : ZMod modN) ^ 2
      ∧ OnChord lam x.toNat x.toNat y.toNat p := by
  have den_ne_zero : residue (addMont (tomont ⟨y⟩) (tomont ⟨y⟩)) ≠ 0 := by
    rw [residue_addMont, residue_tomont]
    exact double_y_ne_zero valid
  obtain ⟨q, answered, reduced, quotient⟩ := montdiv_ends den_ne_zero
  have on_chord := chord_onChord (y := tomont ⟨y⟩) reduced (residue_addMont (tomont ⟨x⟩) (tomont ⟨x⟩))
  rw [← cast_stdNat q.word, residue_tomont, residue_tomont] at on_chord
  refine ⟨stdNat q.word.toNat, _, doublePoint_eq answered, stdNat_lt _, ?_, on_chord⟩
  simp only [residue_addMont, residue_montmul (tomont_reduced _), residue_tomont] at quotient
  rw [cast_stdNat]
  linear_combination quotient

theorem addPoints_of_ne {x1 y1 x2 y2 : Word} (hx1 : x1.toNat < modN) (hx2 : x2.toNat < modN) (ne : x1 ≠ x2) :
    ∃ (lam : Nat) (p : Std × Std), addPoints ⟨x1⟩ ⟨y1⟩ ⟨x2⟩ ⟨y2⟩ = some p ∧ lam < modN
      ∧ (lam : ZMod modN) * (x2.toNat - x1.toNat) = y2.toNat - y1.toNat
      ∧ OnChord lam x1.toNat x2.toNat y1.toNat p := by
  have den_ne_zero : residue (subMont (tomont ⟨x2⟩) (tomont ⟨x1⟩)) ≠ 0 := by
    rw [residue_subMont, residue_tomont, residue_tomont, sub_ne_zero]
    exact fun same => ne ((cast_toNat_inj hx2 hx1).1 same).symm
  obtain ⟨q, answered, reduced, quotient⟩ :=
    montdiv_ends (x := subMont (tomont ⟨y2⟩) (tomont ⟨y1⟩)) den_ne_zero
  have on_chord := chord_onChord (y := tomont ⟨y1⟩) reduced (residue_addMont (tomont ⟨x1⟩) (tomont ⟨x2⟩))
  rw [← cast_stdNat q.word, residue_tomont, residue_tomont, residue_tomont] at on_chord
  refine ⟨stdNat q.word.toNat, _, addPoints_eq answered, stdNat_lt _, ?_, on_chord⟩
  rwa [residue_subMont, residue_subMont, residue_tomont, residue_tomont, residue_tomont, residue_tomont,
    ← cast_stdNat q.word] at quotient

/-! Steps 4 to 7 for two valid points (R176 to R179). -/

@[simp] theorem okPoint_some (p : Std × Std) : okPoint (some p) = .ok p.1.word p.2.word := rfl

theorem ecaddBothValid_of_same {x y : Word} (valid : validPoint x y = true) (sampled : Budget) :
    ∃ (lam : Nat) (p : Std × Std), ecaddBothValid x y x y sampled = .ok p.1.word p.2.word ∧ lam < modN
      ∧ (lam : ZMod modN) * (2 * y.toNat) = 3 * (x.toNat : ZMod modN) ^ 2
      ∧ OnChord lam x.toNat x.toNat y.toNat p := by
  obtain ⟨lam, p, doubled, slope⟩ := doublePoint_of_validPoint valid
  have not_opposite : oppositePoints x y x y = false := by
    rw [← Bool.not_eq_true, oppositePoints_iff]
    exact fun ⟨_, same⟩ => negY_ne_self valid same.symm
  refine ⟨lam, p, ?_, slope⟩
  simp [ecaddBothValid, not_opposite, unrelatedPoints, equalPoints, doubled]

theorem ecaddBothValid_of_ne {x1 y1 x2 y2 : Word} (hx1 : x1.toNat < modN) (hx2 : x2.toNat < modN) (ne : x1 ≠ x2)
    (sampled : Budget) :
    ∃ (lam : Nat) (p : Std × Std), ecaddBothValid x1 y1 x2 y2 sampled = .ok p.1.word p.2.word ∧ lam < modN
      ∧ (lam : ZMod modN) * (x2.toNat - x1.toNat) = y2.toNat - y1.toNat
      ∧ OnChord lam x1.toNat x2.toNat y1.toNat p := by
  obtain ⟨lam, p, added, slope⟩ := addPoints_of_ne (y1 := y1) (y2 := y2) hx1 hx2 ne
  refine ⟨lam, p, ?_, slope⟩
  simp [ecaddBothValid, oppositePoints, unrelatedPoints, equalPoints, ne, added]

/-- Step 4 on a valid point and its negation. -/
theorem ecaddBothValid_negY (x y : Word) (sampled : Budget) : ecaddBothValid x y x (negY y) sampled = .ok 0 0 :=
  ecaddBothValid_of_opposite (oppositePoints_iff.2 ⟨rfl, rfl⟩) sampled

/-- Two points on a line of slope `lam` meet the equation of `OnChord.validPoint`: the difference of their curve
equations has the factor `x2 - x1`. -/
theorem chord_slope {lam x1 y1 x2 y2 : ZMod modN} (on1 : y1 ^ 2 = x1 ^ 3 + 3) (on2 : y2 ^ 2 = x2 ^ 3 + 3)
    (ne : x2 - x1 ≠ 0) (line : lam * (x2 - x1) = y2 - y1) :
    lam * (2 * y1 + lam * (x2 - x1)) = x1 ^ 2 + x1 * x2 + x2 ^ 2 := by
  have := modN_prime_fact
  refine mul_left_cancel₀ ne ?_
  rw [line]
  linear_combination (y1 + y2) * line + on2 - on1

/-- The infinity encoding or a valid point: what a success of ECADD answers. -/
def IsPoint (x y : Word) : Prop := (x = 0 ∧ y = 0) ∨ validPoint x y = true

/-- Every end of steps 4 to 7 for two valid points is infinity or a valid point. -/
theorem ecaddBothValid_spec {x1 y1 x2 y2 : Word} (valid1 : validPoint x1 y1 = true)
    (valid2 : validPoint x2 y2 = true) (sampled : Budget) :
    ∃ q0 q1, ecaddBothValid x1 y1 x2 y2 sampled = .ok q0 q1 ∧ IsPoint q0 q1 := by
  obtain ⟨hx1, -, on1⟩ := validPoint_iff_residues.1 valid1
  obtain ⟨hx2, -, on2⟩ := validPoint_iff_residues.1 valid2
  by_cases same_x : x1 = x2
  · subst same_x
    obtain rfl | rfl := eq_or_eq_negY_of_validPoint valid1 valid2
    · obtain ⟨lam, p, answered, -, tangent, on_chord⟩ := ecaddBothValid_of_same valid1 sampled
      refine ⟨_, _, answered, .inr (on_chord.validPoint on1 ?_)⟩
      linear_combination tangent
    · exact ⟨0, 0, ecaddBothValid_negY x1 y1 sampled, .inl ⟨rfl, rfl⟩⟩
  · obtain ⟨lam, p, answered, -, line, on_chord⟩ := ecaddBothValid_of_ne (y1 := y1) (y2 := y2) hx1 hx2 same_x sampled
    have ne : (x2.toNat : ZMod modN) - x1.toNat ≠ 0 :=
      sub_ne_zero.2 fun same => same_x ((cast_toNat_inj hx2 hx1).1 same).symm
    exact ⟨_, _, answered, .inr (on_chord.validPoint on1 (chord_slope on1 on2 ne line))⟩

/-! The whole command's function (R171). -/

theorem validateOne_ne_stepFive (x y : Word) : validateOne x y ≠ some .invalidSameXDifferentY := by
  obtain ⟨-, reported⟩ | ⟨-, -, -, reported⟩ | ⟨-, -, -, reported⟩ := validateOne_cases x y <;> simp [reported]

theorem ecaddOnePoint_cases (x y : Word) (sampled : Budget) :
    (∃ kind, kind ≠ .invalidSameXDifferentY ∧ ecaddOnePoint x y sampled = .fail kind sampled)
      ∨ (validPoint x y = true ∧ ecaddOnePoint x y sampled = .ok x y) := by
  cases reported : validateOne x y with
  | some kind =>
    refine .inl ⟨kind, ?_, by simp [ecaddOnePoint, reported]⟩
    rintro rfl
    exact validateOne_ne_stepFive x y reported
  | none => exact .inr ⟨validateOne_eq_none_iff.1 reported, by simp [ecaddOnePoint, reported]⟩

/-- Step 3 reports one of the two kinds of R175, or nothing for two valid points. -/
theorem validateBoth_cases (x1 y1 x2 y2 : Word) :
    (∃ kind, kind ≠ .invalidSameXDifferentY ∧ validateBoth x1 y1 x2 y2 = some kind
        ∧ ¬(validPoint x1 y1 = true ∧ validPoint x2 y2 = true))
      ∨ (validPoint x1 y1 = true ∧ validPoint x2 y2 = true) := by
  by_cases valid : validPoint x1 y1 = true ∧ validPoint x2 y2 = true
  · exact .inr valid
  · by_cases out : modN ≤ x1.toNat ∨ modN ≤ y1.toNat ∨ modN ≤ x2.toNat ∨ modN ≤ y2.toNat
    · exact .inl ⟨_, ErrorKind.noConfusion, validateBoth_of_out_of_range out, valid⟩
    · simp only [not_or, not_le] at out
      obtain ⟨hx1, hy1, hx2, hy2⟩ := out
      have invalid : validPoint x1 y1 = false ∨ validPoint x2 y2 = false := by
        simpa only [not_and_or, Bool.not_eq_true] using valid
      exact .inl ⟨_, ErrorKind.noConfusion, validateBoth_of_off_curve hx1 hy1 hx2 hy2 invalid, valid⟩

end Sys2Proof.Proofs

/-! The command ECADD as a whole (43_group_law.md rules R180 to R188): how it can end, and the obligations about its
results. -/

namespace Sys2Proof.Proofs

open Sys2Proof Sys2Proof.Machine

/-! Every end of the decision tree (R171, R182, R186). -/

theorem finite_of_isinf_eq_false {x y : Word} (finite : isinf x y = false) : (x, y) ≠ (0, 0) := by
  intro infinity
  rw [isinf_eq_true_of_eq infinity] at finite
  cases finite

theorem IsPoint.reduced {x y : Word} (point : IsPoint x y) : x.toNat < modN ∧ y.toNat < modN := by
  obtain ⟨rfl, rfl⟩ | valid := point
  · exact ⟨modN_pos, modN_pos⟩
  · obtain ⟨hx, hy, -⟩ := validPoint_iff.1 valid
    exact ⟨hx, hy⟩

/-- An outcome of ECADD that is not a hang and not the failure of step 5. -/
def EndsWell (sampled : Budget) (out : CommandOutcome) : Prop :=
  (∃ kind, kind ≠ .invalidSameXDifferentY ∧ out = .fail kind sampled)
    ∨ ∃ q0 q1, out = .ok q0 q1 ∧ IsPoint q0 q1

theorem ecaddOnePoint_endsWell (x y : Word) (sampled : Budget) : EndsWell sampled (ecaddOnePoint x y sampled) := by
  obtain failed | ⟨valid, answered⟩ := ecaddOnePoint_cases x y sampled
  · exact .inl failed
  · exact .inr ⟨x, y, answered, .inr valid⟩

theorem ecadd_endsWell (x1 y1 x2 y2 : Word) (sampled : Budget) : EndsWell sampled (ecadd x1 y1 x2 y2 sampled) := by
  cases inf1 : isinf x1 y1 <;> cases inf2 : isinf x2 y2
  case true.true => exact .inr ⟨0, 0, ecadd_of_isinf_both inf1 inf2 sampled, .inl ⟨rfl, rfl⟩⟩
  case true.false =>
    rw [ecadd_of_isinf_left inf1 inf2]
    exact ecaddOnePoint_endsWell x2 y2 sampled
  case false.true =>
    rw [ecadd_of_isinf_right inf1 inf2]
    exact ecaddOnePoint_endsWell x1 y1 sampled
  case false.false =>
    obtain ⟨kind, ne, reported, -⟩ | ⟨valid1, valid2⟩ := validateBoth_cases x1 y1 x2 y2
    · exact .inl ⟨kind, ne, ecadd_fail_of_finite (finite_of_isinf_eq_false inf1) (finite_of_isinf_eq_false inf2)
        reported sampled⟩
    · rw [ecadd_of_validPoint valid1 valid2]
      exact .inr (ecaddBothValid_spec valid1 valid2 sampled)

theorem ecadd_ne_diverge (x1 y1 x2 y2 : Word) (sampled : Budget) : ecadd x1 y1 x2 y2 sampled ≠ .diverge := by
  obtain ⟨_, -, failed⟩ | ⟨_, _, answered, -⟩ := ecadd_endsWell x1 y1 x2 y2 sampled
  · exact fun diverges => CommandOutcome.noConfusion (failed.symm.trans diverges)
  · exact fun diverges => CommandOutcome.noConfusion (answered.symm.trans diverges)

/-- A success of ECADD is infinity or a valid point (R185). -/
theorem isPoint_of_ecadd_ok {x1 y1 x2 y2 q0 q1 : Word} {sampled : Budget}
    (answered : ecadd x1 y1 x2 y2 sampled = .ok q0 q1) : IsPoint q0 q1 := by
  obtain ⟨_, -, failed⟩ | ⟨_, _, answered', point⟩ := ecadd_endsWell x1 y1 x2 y2 sampled
  · exact CommandOutcome.noConfusion (failed.symm.trans answered)
  · obtain ⟨rfl, rfl⟩ := CommandOutcome.ok.inj (answered.symm.trans answered')
    exact point

/-- Settles O52: validation reports the other two kinds, and past it every end is a success. -/
theorem stepFiveNeverFires : Obligations.StepFiveNeverFires := by
  intro x1 y1 x2 y2 sampled amount fires
  obtain ⟨kind, ne, failed⟩ | ⟨_, _, answered, -⟩ := ecadd_endsWell x1 y1 x2 y2 sampled
  · obtain ⟨same, -⟩ := CommandOutcome.fail.inj (failed.symm.trans fires)
    exact ne same
  · exact CommandOutcome.noConfusion (answered.symm.trans fires)

/-- Settles O55: ECADD's function answers or fails, and the command ends with it. -/
theorem ecaddNeverHangs : Obligations.EcaddNeverHangs := by
  intro s x1 y1 x2 y2 budget held
  obtain ⟨kind, -, failed⟩ | ⟨q0, q1, answered, -⟩ := ecadd_endsWell x1 y1 x2 y2 budget
  · exact .inr ⟨kind, exec_ecadd_fail_of_holdsPoints held failed⟩
  · exact .inl ⟨q0, q1, exec_ecadd_of_holdsPoints held answered⟩

/-! The formulas over the integers (R183, R184). -/

theorem cast_int_eq_iff {a b : Int} : (a : ZMod modN) = b ↔ a % modN = b % modN :=
  ZMod.intCast_eq_intCast_iff' a b modN

/-- A reduced word is the remainder of every integer of its residue class. -/
theorem toNat_eq_emod {x : Word} (reduced : x.toNat < modN) {e : Int} (same : (x.toNat : ZMod modN) = e) :
    (x.toNat : Int) = e % modN := by
  have remainder : (x.toNat : Int) % modN = e % modN := cast_int_eq_iff.1 (by exact_mod_cast same)
  rwa [Int.emod_eq_of_lt (Int.natCast_nonneg _) (by exact_mod_cast reduced)] at remainder

theorem OnChord.x_eq_emod {lam x1 x2 y1 : Nat} {p : Std × Std}
    (h : OnChord (lam : ZMod modN) (x1 : ZMod modN) (x2 : ZMod modN) (y1 : ZMod modN) p) :
    (p.1.word.toNat : Int) = ((lam : Int) ^ 2 - x1 - x2) % modN := by
  refine toNat_eq_emod h.x_reduced ?_
  rw [h.x_eq]
  push_cast
  rfl

theorem OnChord.y_eq_emod {lam x1 x2 y1 : Nat} {p : Std × Std}
    (h : OnChord (lam : ZMod modN) (x1 : ZMod modN) (x2 : ZMod modN) (y1 : ZMod modN) p) :
    (p.2.word.toNat : Int) = ((lam : Int) * (x1 - p.1.word.toNat) - y1) % modN := by
  refine toNat_eq_emod h.y_reduced ?_
  rw [h.y_eq]
  push_cast
  rfl

/-- Settles O53: a valid point is not its own opposite, so step 6 is reached, with the tangent's slope. -/
theorem ecaddDoubles : Obligations.EcaddDoubles := by
  intro s x y budget held valid
  obtain ⟨lam, p, answered, lam_lt, tangent, on_chord⟩ := ecaddBothValid_of_same valid budget
  refine ⟨p.1.word, p.2.word, lam, exec_ecadd_of_holdsPoints held ?_, on_chord.x_reduced, on_chord.y_reduced, lam_lt,
    (ZMod.natCast_eq_natCast_iff' _ _ _).1 (by exact_mod_cast tangent), ?_, on_chord.y_eq_emod⟩
  · rw [ecadd_of_validPoint valid valid, answered]
  · rw [on_chord.x_eq_emod, sub_sub, two_mul]

/-- Settles O54: different `x` lead to step 7, with the chord's slope. -/
theorem ecaddAdds : Obligations.EcaddAdds := by
  intro s x1 y1 x2 y2 budget held valid1 valid2 ne
  obtain ⟨hx1, -⟩ := validPoint_iff.1 valid1
  obtain ⟨hx2, -⟩ := validPoint_iff.1 valid2
  obtain ⟨lam, p, answered, lam_lt, line, on_chord⟩ := ecaddBothValid_of_ne (y1 := y1) (y2 := y2) hx1 hx2 ne budget
  refine ⟨p.1.word, p.2.word, lam, exec_ecadd_of_holdsPoints held ?_, on_chord.x_reduced, on_chord.y_reduced, lam_lt,
    cast_int_eq_iff.1 ?_, on_chord.x_eq_emod, on_chord.y_eq_emod⟩
  · rw [ecadd_of_validPoint valid1 valid2, answered]
  · push_cast
    exact line

/-! The order of the points (R187). -/

/-- The chord through two points is the same from either end. -/
theorem ecaddBothValid_symm {x1 y1 x2 y2 : Word} (valid1 : validPoint x1 y1 = true)
    (valid2 : validPoint x2 y2 = true) (sampled : Budget) :
    ∃ q0 q1, ecaddBothValid x1 y1 x2 y2 sampled = .ok q0 q1 ∧ ecaddBothValid x2 y2 x1 y1 sampled = .ok q0 q1 := by
  obtain ⟨hx1, hy1, -⟩ := validPoint_iff.1 valid1
  obtain ⟨hx2, -⟩ := validPoint_iff.1 valid2
  by_cases same_x : x1 = x2
  · subst same_x
    obtain rfl | rfl := eq_or_eq_negY_of_validPoint valid1 valid2
    · obtain ⟨_, p, answered, -⟩ := ecaddBothValid_of_same valid1 sampled
      exact ⟨_, _, answered, answered⟩
    · have back := ecaddBothValid_negY x1 (negY y1) sampled
      rw [negY_negY hy1] at back
      exact ⟨0, 0, ecaddBothValid_negY x1 y1 sampled, back⟩
  · have := modN_prime_fact
    obtain ⟨lam, p, answered, -, line, on_chord⟩ := ecaddBothValid_of_ne (y1 := y1) (y2 := y2) hx1 hx2 same_x sampled
    obtain ⟨lam', p', answered', -, line', on_chord'⟩ :=
      ecaddBothValid_of_ne (y1 := y2) (y2 := y1) hx2 hx1 (Ne.symm same_x) sampled
    have ne : (x2.toNat : ZMod modN) - x1.toNat ≠ 0 :=
      sub_ne_zero.2 fun same => same_x ((cast_toNat_inj hx2 hx1).1 same).symm
    have same_slope : (lam : ZMod modN) = lam' := by
      refine mul_right_cancel₀ ne ?_
      linear_combination line + line'
    rw [← same_slope] at on_chord'
    obtain rfl : p = p' := on_chord.eq on_chord' (add_comm _ _) (by linear_combination -line)
    exact ⟨_, _, answered, answered'⟩

/-- Settles O56: the infinity steps and validation treat the points alike, and steps 4 to 7 are symmetric. -/
theorem ecaddSymmetric : Obligations.EcaddSymmetric := by
  intro x1 y1 x2 y2 sampled
  cases inf1 : isinf x1 y1 <;> cases inf2 : isinf x2 y2
  case true.true => exact .inl ⟨0, 0, ecadd_of_isinf_both inf1 inf2 sampled, ecadd_of_isinf_both inf2 inf1 sampled⟩
  case true.false =>
    rw [ecadd_of_isinf_left inf1 inf2, ecadd_of_isinf_right inf2 inf1]
    obtain ⟨kind, -, failed⟩ | ⟨-, answered⟩ := ecaddOnePoint_cases x2 y2 sampled
    · exact .inr ⟨kind, kind, failed, failed⟩
    · exact .inl ⟨x2, y2, answered, answered⟩
  case false.true =>
    rw [ecadd_of_isinf_right inf1 inf2, ecadd_of_isinf_left inf2 inf1]
    obtain ⟨kind, -, failed⟩ | ⟨-, answered⟩ := ecaddOnePoint_cases x1 y1 sampled
    · exact .inr ⟨kind, kind, failed, failed⟩
    · exact .inl ⟨x1, y1, answered, answered⟩
  case false.false =>
    have finite1 := finite_of_isinf_eq_false inf1
    have finite2 := finite_of_isinf_eq_false inf2
    obtain ⟨kind, -, reported, invalid⟩ | ⟨valid1, valid2⟩ := validateBoth_cases x1 y1 x2 y2
    · obtain ⟨kind', -, reported', -⟩ | ⟨valid2, valid1⟩ := validateBoth_cases x2 y2 x1 y1
      · exact .inr ⟨kind, kind', ecadd_fail_of_finite finite1 finite2 reported sampled,
          ecadd_fail_of_finite finite2 finite1 reported' sampled⟩
      · exact absurd ⟨valid1, valid2⟩ invalid
    · rw [ecadd_of_validPoint valid1 valid2, ecadd_of_validPoint valid2 valid1]
      exact .inl (ecaddBothValid_symm valid1 valid2 sampled)

/-! The results of the command (R180, R185, R188). -/

theorem samplePoints_ok {f : Word → Word → Word → Word → Budget → CommandOutcome} {s : State} {out : CommandOutcome}
    (h : samplePoints f s = .ok out) : ∃ x1 y1 x2 y2 budget, out = f x1 y1 x2 y2 budget := by
  obtain ⟨x1, y1, x2, y2, budget, -, -, -, -, -, sampled⟩ | ⟨-, refused⟩ | ⟨-, refused⟩ | ⟨-, refused⟩ | ⟨-, refused⟩
    | ⟨-, refused⟩ := samplePoints_cases f s
  · exact ⟨x1, y1, x2, y2, budget, Except.ok.inj (h.symm.trans sampled)⟩
  all_goals cases refused.symm.trans h

/-- A state that ECADD answers with held results has them from a success of its function on held points. -/
theorem exec_ecadd_results {s t : State} {q0 q1 : Word} (ended : runEnded s) (stepped : exec .ecadd s = .next t)
    (hq0 : t.q0 = some q0) (hq1 : t.q1 = some q1) :
    ∃ x1 y1 x2 y2 budget, ecadd x1 y1 x2 y2 budget = .ok q0 q1 := by
  rw [exec_eq_issue] at stepped
  obtain ⟨busy, -⟩ | ⟨-, out, sampled, rfl⟩ := issueCommand_next_cases stepped
  · exact absurd busy ended
  · have answered : out = .ok q0 q1 := by
      cases out <;> simp [completeCommand] at hq0 hq1
      rw [hq0, hq1]
    obtain ⟨x1, y1, x2, y2, budget, outcome⟩ := samplePoints_ok sampled
    exact ⟨x1, y1, x2, y2, budget, outcome.symm.trans answered⟩

theorem isPoint_of_exec_ecadd {s t : State} {q0 q1 : Word} (ended : runEnded s) (stepped : exec .ecadd s = .next t)
    (hq0 : t.q0 = some q0) (hq1 : t.q1 = some q1) : IsPoint q0 q1 := by
  obtain ⟨_, _, _, _, _, answered⟩ := exec_ecadd_results ended stepped hq0 hq1
  exact isPoint_of_ecadd_ok answered

theorem outWindow_of_held {s : State} {q0 q1 : Word} (hq0 : s.q0 = some q0) (hq1 : s.q1 = some q1) :
    outWindow s = some (wordBytes q0 ++ wordBytes q1) := by
  simp [outWindow, hq0, hq1]

/-- Settles O57: a point has reduced words. -/
theorem ecaddResultsAreReduced : Obligations.EcaddResultsAreReduced := by
  intro s t q0 q1 ended stepped hq0 hq1
  obtain ⟨q0_lt, q1_lt⟩ := (isPoint_of_exec_ecadd ended stepped hq0 hq1).reduced
  exact ⟨q0_lt, q1_lt, outWindow_of_held hq0 hq1, by simp⟩

/-- Settles O58: the third point of a chord or a tangent of the curve is on the curve. -/
theorem ecaddResultIsAPoint : Obligations.EcaddResultIsAPoint :=
  fun _ _ _ _ ended stepped hq0 hq1 => isPoint_of_exec_ecadd ended stepped hq0 hq1

/-- Settles O60: steps 1 and 2 for the identity, step 4 for the inverse, which is the negation. -/
theorem identityAndInverse : Obligations.IdentityAndInverse := by
  intro x y sampled valid
  have negation : BitVec.ofNat 256 (modN - y.toNat) = negY y := by
    rw [← negY_toNat_of_validPoint valid, BitVec.ofNat_toNat, BitVec.setWidth_eq]
  refine ⟨ecadd_zero_left valid sampled, ecadd_zero_right valid sampled, ?_⟩
  rw [negation, ecadd_of_validPoint valid (validPoint_negY valid), ecaddBothValid_negY]

end Sys2Proof.Proofs

/-! Commands (10_state.md rules R22 to R39, 30_encoding.md rules R80, R81) and steps (R27, R78). What issuing a
command can do is one outcome of its sampled operands, completed; what a step can do is one of the five effects of
`StepEffect`. The statements about commands, phases and the consistent states follow from these two. -/

namespace Sys2Proof.Proofs

open Sys2Proof Sys2Proof.Machine

/-! Sampling the binding (R72, R80). -/

/-- `o` is a sample of the registers of `binding`: an outcome when all of them hold values, else a refusal that names
one that holds none. -/
def SampleOf (binding : List Reg) (s : State) (o : Except Refusal CommandOutcome) : Prop :=
  ((∀ r ∈ binding, holdsValue r s = true) ∧ ∃ out, o = .ok out)
    ∨ ∃ r ∈ binding, holdsValue r s = false ∧ o = .error (.operandHoldsNoValue r)

theorem sampleOne_sampleOf (f : Word → CommandOutcome) (s : State) : SampleOf [.a0] s (sampleOne f s) := by
  obtain ⟨a, h0, sampled⟩ | ⟨h0, refused⟩ := sampleOne_cases f s
  · exact .inl ⟨by simp [holdsValue, h0], _, sampled⟩
  · exact .inr ⟨.a0, by simp, by simp [holdsValue, h0], refused⟩

theorem sampleTwo_sampleOf (f : Word → Word → CommandOutcome) (s : State) :
    SampleOf [.a0, .a1] s (sampleTwo f s) := by
  obtain ⟨a, b, h0, h1, sampled⟩ | ⟨h0, refused⟩ | ⟨h1, refused⟩ := sampleTwo_cases f s
  · exact .inl ⟨by simp [holdsValue, h0, h1], _, sampled⟩
  · exact .inr ⟨.a0, by simp, by simp [holdsValue, h0], refused⟩
  · exact .inr ⟨.a1, by simp, by simp [holdsValue, h1], refused⟩

theorem samplePoints_sampleOf (f : Word → Word → Word → Word → Budget → CommandOutcome) (s : State) :
    SampleOf [.a0, .a1, .a2, .a3, .budget] s (samplePoints f s) := by
  obtain ⟨_, _, _, _, _, h0, h1, h2, h3, hb, sampled⟩ | ⟨h0, refused⟩ | ⟨h1, refused⟩ | ⟨h2, refused⟩ | ⟨h3, refused⟩
    | ⟨hb, refused⟩ := samplePoints_cases f s
  · exact .inl ⟨by simp [holdsValue, h0, h1, h2, h3, hb], _, sampled⟩
  · exact .inr ⟨.a0, by simp, by simp [holdsValue, h0], refused⟩
  · exact .inr ⟨.a1, by simp, by simp [holdsValue, h1], refused⟩
  · exact .inr ⟨.a2, by simp, by simp [holdsValue, h2], refused⟩
  · exact .inr ⟨.a3, by simp, by simp [holdsValue, h3], refused⟩
  · exact .inr ⟨.budget, by simp, by simp [holdsValue, hb], refused⟩

/-- Every command samples the registers of its binding. -/
theorem sampledOutcome_sampleOf (i : Instr) (s : State) : SampleOf (operandBinding i) s (sampledOutcome i s) := by
  cases i with
  | tomont | frommont | montinv | rangechk => exact sampleOne_sampleOf _ s
  | mulw | addmod | submod | redc | montmul | montexp | montdiv | isinf | oncurve => exact sampleTwo_sampleOf _ s
  | ecadd => exact samplePoints_sampleOf _ s

/-- Settles O21: the sample is the refusal, and issuing passes it on. -/
theorem unheldOperandRefuses : Obligations.UnheldOperandRefuses := by
  intro i s r ended bound unheld
  obtain ⟨held, -⟩ | ⟨r', bound', unheld', refused⟩ := sampledOutcome_sampleOf i s
  · exact absurd ((held r bound).symm.trans unheld) Bool.noConfusion
  · refine ⟨r', bound', unheld', ?_⟩
    rw [exec_eq_issue, refused, issueCommand_error ended]

/-! Start and completion together (R80, R81). -/

/-- The state a started command completes in. -/
def completed (code : Byte) (out : CommandOutcome) (s : State) : State :=
  completeCommand code out (startCommand code s)

/-- The events a completion adds to the trace (R37, R81). -/
def outcomeEvents (code : Byte) : CommandOutcome → List Event
  | .ok q0 q1 => [.returned code q0 q1]
  | .fail kind sampled => [.burn burnDescriptor sampled, .aborted code kind]
  | .illegal => [.rejected code]
  | .diverge => []

theorem completed_trace (code : Byte) (out : CommandOutcome) (s : State) :
    (completed code out s).trace = s.trace ++ outcomeEvents code out := by
  cases out <;> simp [completed, completeCommand, outcomeEvents]

theorem completed_cmd (code : Byte) (out : CommandOutcome) (s : State) : (completed code out s).cmd = code := by
  obtain ⟨-, -, -, -, -, cmd, -⟩ := completeCommand_frame code out (startCommand code s)
  exact cmd

theorem completed_phase_ne_idle (code : Byte) (out : CommandOutcome) (s : State) :
    (completed code out s).status.phase ≠ .idle := by
  cases out <;> simp [completed, completeCommand]

theorem completed_illCmd {out : CommandOutcome} (legal : out ≠ .illegal) (code : Byte) (s : State) :
    (completed code out s).status.illCmd = false := by
  cases out with
  | illegal => exact absurd rfl legal
  | ok | fail | diverge => rfl

/-- R39: what a completion shows of its command is a function of the outcome alone. -/
theorem completed_shows_outcome (code : Byte) (out : CommandOutcome) (s1 s2 : State) :
    (completed code out s1).q0 = (completed code out s2).q0 ∧ (completed code out s1).q1 = (completed code out s2).q1
      ∧ (completed code out s1).status = (completed code out s2).status
      ∧ (completed code out s1).burnAmt = (completed code out s2).burnAmt := by
  cases out <;> exact ⟨rfl, rfl, rfl, rfl⟩

theorem exec_of_sampledOutcome {i : Instr} {s : State} {out : CommandOutcome} (ended : runEnded s)
    (sampled : sampledOutcome i s = .ok out) : exec i s = .next (completed (instrCode i) out s) := by
  rw [exec_eq_issue, sampled, issueCommand_ok ended]
  rfl

/-- Everything a command can answer with a next state. -/
theorem exec_next_cases {i : Instr} {s t : State} (stepped : exec i s = .next t) :
    (s.status.phase = .busy ∧ t = s)
      ∨ (runEnded s ∧ ∃ out, sampledOutcome i s = .ok out ∧ t = completed (instrCode i) out s) := by
  rw [exec_eq_issue] at stepped
  exact issueCommand_next_cases stepped

/-- Settles O22: the sample is an outcome, and no command's outcome is `Illegal`. -/
theorem heldOperandsStart : Obligations.HeldOperandsStart := by
  intro i s ended held
  obtain ⟨-, out, sampled⟩ | ⟨r, bound, unheld, -⟩ := sampledOutcome_sampleOf i s
  · have legal : out ≠ .illegal := by
      rintro rfl
      exact sampledOutcome_ne_illegal i s sampled
    exact ⟨_, exec_of_sampledOutcome ended sampled, completed_cmd _ _ _, completed_phase_ne_idle _ _ _,
      completed_illCmd legal _ _⟩
  · exact absurd ((held r bound).symm.trans unheld) Bool.noConfusion

/-- Settles O19: neither start nor completion writes what the statement lists, and completion adds its events. -/
theorem commandFrame : Obligations.CommandFrame := by
  intro i s t stepped
  obtain ⟨-, rfl⟩ | ⟨-, out, -, rfl⟩ := exec_next_cases stepped
  · exact ⟨rfl, rfl, rfl, rfl, rfl, rfl, rfl, rfl, [], (List.append_nil _).symm⟩
  · obtain ⟨a0, a1, a2, a3, budget, -, script, line, reads⟩ :=
      completeCommand_frame (instrCode i) out (startCommand (instrCode i) s)
    exact ⟨a0, a1, a2, a3, budget, script, line, reads, outcomeEvents (instrCode i) out, completed_trace _ _ _⟩

/-- A sample looks at the operand registers and `BUDGET` only. -/
theorem sampledOutcome_congr {s1 s2 : State} (a0 : s1.a0 = s2.a0) (a1 : s1.a1 = s2.a1) (a2 : s1.a2 = s2.a2)
    (a3 : s1.a3 = s2.a3) (budget : s1.budget = s2.budget) (i : Instr) :
    sampledOutcome i s1 = sampledOutcome i s2 := by
  cases i <;> simp only [sampledOutcome, sampleOne, sampleTwo, samplePoints, a0, a1, a2, a3, budget]

/-- Settles O20: both states sample the same outcome, and a completion shows its outcome alone. -/
theorem outcomeDependsOnOperandsOnly : Obligations.OutcomeDependsOnOperandsOnly := by
  intro i s1 s2 t1 ended1 ended2 a0 a1 a2 a3 budget stepped
  obtain ⟨busy, -⟩ | ⟨-, out, sampled, rfl⟩ := exec_next_cases stepped
  · exact absurd busy ended1
  · have sampled2 := (sampledOutcome_congr a0 a1 a2 a3 budget i).symm.trans sampled
    obtain ⟨q0, q1, status, burnAmt⟩ := completed_shows_outcome (instrCode i) out s1 s2
    have cmd := (completed_cmd (instrCode i) out s1).trans (completed_cmd (instrCode i) out s2).symm
    exact ⟨_, outcomeEvents (instrCode i) out, exec_of_sampledOutcome ended2 sampled2, q0, q1, cmd, status, burnAmt,
      completed_trace _ _ _, completed_trace _ _ _⟩

/-! Which commands can hang (R137, R186). -/

theorem sampleOne_ok {f : Word → CommandOutcome} {s : State} {out : CommandOutcome} (h : sampleOne f s = .ok out) :
    ∃ a, out = f a := by
  obtain ⟨a, -, sampled⟩ | ⟨-, refused⟩ := sampleOne_cases f s
  · exact ⟨a, Except.ok.inj (h.symm.trans sampled)⟩
  · cases refused.symm.trans h

theorem sampleTwo_ok {f : Word → Word → CommandOutcome} {s : State} {out : CommandOutcome}
    (h : sampleTwo f s = .ok out) : ∃ a b, out = f a b := by
  obtain ⟨a, b, -, -, sampled⟩ | ⟨-, refused⟩ | ⟨-, refused⟩ := sampleTwo_cases f s
  · exact ⟨a, b, Except.ok.inj (h.symm.trans sampled)⟩
  · cases refused.symm.trans h
  · cases refused.symm.trans h

/-- A loop that never ends is an inversion's: ECADD divides by what is not 0. -/
theorem sampledOutcome_diverge {i : Instr} {s : State} (diverges : sampledOutcome i s = .ok .diverge) :
    i = .montinv ∨ i = .montdiv := by
  cases i with
  | montinv => exact .inl rfl
  | montdiv => exact .inr rfl
  | tomont | frommont | rangechk =>
    obtain ⟨_, word⟩ := sampleOne_ok diverges
    cases word
  | mulw | addmod | submod | redc | montmul | montexp | isinf | oncurve =>
    obtain ⟨_, _, word⟩ := sampleTwo_ok diverges
    cases word
  | ecadd =>
    obtain ⟨_, _, _, _, _, ends⟩ := samplePoints_ok diverges
    exact absurd ends.symm (ecadd_ne_diverge _ _ _ _ _)

end Sys2Proof.Proofs

/-! What a step can do (10_state.md rules R23 to R38, 30_encoding.md rule R78), said once, and what every step keeps. -/

namespace Sys2Proof.Proofs

open Sys2Proof Sys2Proof.Machine

/-! The effects of a step. -/

/-- `t` differs from `s` at most in the host's position and in what it has read. -/
def CoreKept (s t : State) : Prop := t = { s with line := t.line, reads := t.reads }

theorem CoreKept.trans {s t u : State} (h : CoreKept s t) (h' : CoreKept t u) : CoreKept s u := by
  rw [CoreKept] at *
  rw [h', h]

/-- The next line of the script writes `CMD`. -/
def WritesCmd (s : State) : Prop :=
  (∃ v, fetchLine s = some (.wr (regIndex .cmd) v)) ∨ ∃ i, fetchLine s = some (.command i)

/-- The five things a step can do to the core. -/
inductive StepEffect (s t : State) : Prop where
  | kept (same : CoreKept s t)
  | reset (fetched : fetchLine s = some .reset) (eq : t = resetEvent (nextLine s))
  | wrote (ended : runEnded s) (r : Option Reg) (data : Nat) (eq : t = writeData r data (nextLine s))
  | issued (ended : runEnded s) (line : WritesCmd s) (i : Instr) (out : CommandOutcome)
      (sampled : sampledOutcome i (nextLine s) = .ok out) (eq : t = completed (instrCode i) out (nextLine s))
  | rejected (ended : runEnded s) (line : WritesCmd s) (code : Byte) (reserved : decodeCode code = none)
      (eq : t = completed code .illegal (nextLine s))

theorem regAt_eq_cmd {index : RegIndex} (h : regAt index = some .cmd) : index = regIndex .cmd := by
  revert index; decide

theorem hostWrite_effect {index : RegIndex} {data : Nat} {s t : State}
    (line : index = regIndex .cmd → WritesCmd s) (stepped : hostWrite index data (nextLine s) = .next t) :
    StepEffect s t := by
  obtain ⟨-, dropped⟩ | ⟨ended, cmd, issued⟩ | ⟨ended, -, written⟩ := hostWrite_cases index data (nextLine s)
  · obtain rfl := Host.Outcome.next.inj (dropped.symm.trans stepped)
    exact .kept rfl
  · have line := line (regAt_eq_cmd cmd)
    rw [issued] at stepped
    obtain ⟨i, -, execs⟩ | ⟨reserved, rejects⟩ := writeCmd_cases (BitVec.ofNat 8 data) (nextLine s)
    · obtain ⟨busy, -⟩ | ⟨-, out, sampled, eq⟩ := exec_next_cases (execs.symm.trans stepped)
      · exact absurd busy ended
      · exact .issued ended line i out sampled eq
    · obtain rfl := Host.Outcome.next.inj (rejects.symm.trans stepped)
      obtain ⟨busy, -⟩ | ⟨-, eq⟩ := issueReserved_cases (BitVec.ofNat 8 data) (nextLine s)
      · exact absurd busy ended
      · exact .rejected ended line _ reserved eq
  · exact .wrote ended _ _ (Host.Outcome.next.inj (written.symm.trans stepped)).symm

theorem hostRead_kept {index : RegIndex} {s t : State} (stepped : hostRead index s = .next t) : CoreKept s t := by
  obtain ⟨v, -, rfl⟩ := hostRead_next_cases stepped
  rfl

theorem nextLine_kept (s : State) : CoreKept s (nextLine s) := rfl

theorem runWait_kept {s t : State} (stepped : runWait s = .next t) : CoreKept s t := by
  unfold runWait at stepped
  split at stepped
  · exact (nextLine_kept s).trans (hostRead_kept (index := regIndex .status) stepped)
  · exact hostRead_kept (index := regIndex .status) stepped

theorem runIfset_kept {field : StatusField} {target : Nat} {s t : State}
    (stepped : runIfset field target s = .next t) : CoreKept s t := by
  unfold runIfset at stepped
  repeat' split at stepped
  all_goals cases stepped
  all_goals rfl

/-- Everything a step can do. -/
theorem step_effect {s t : State} (stepped : step s = .next t) : StepEffect s t := by
  cases fetched : fetchLine s with
  | none =>
    obtain rfl := Host.Outcome.next.inj ((step_at_end fetched).symm.trans stepped)
    exact .kept rfl
  | some l =>
    rw [step_of_fetch fetched] at stepped
    cases l with
    | wr index v =>
      simp only [runLine, runWrite] at stepped
      split at stepped
      · cases stepped
      · refine hostWrite_effect (fun cmd => .inl ⟨v, ?_⟩) stepped
        rw [fetched, cmd]
    | rd index => exact .kept ((nextLine_kept s).trans (hostRead_kept stepped))
    | command i => exact hostWrite_effect (fun _ => .inr ⟨i, fetched⟩) stepped
    | wait => exact .kept (runWait_kept stepped)
    | label => exact .kept (Host.Outcome.next.inj stepped ▸ nextLine_kept s)
    | ifset field target => exact .kept (runIfset_kept stepped)
    | halt => exact .kept (Host.Outcome.next.inj stepped ▸ rfl)
    | reset => exact .reset fetched (Host.Outcome.next.inj stepped).symm

/-! Consistent states (R23, R29, R30, R32, R37). -/

theorem consistent_reset : Consistent State.reset := ⟨⟨rfl, rfl, rfl, rfl, rfl, rfl, rfl⟩, rfl, rfl⟩

/-- Settles O15: every field the invariant speaks of has its reset value. -/
theorem resetIsConsistent : Obligations.ResetIsConsistent := consistent_reset

/-- The invariant speaks of the status, the results, the burn amount, `CMD` and the trace. -/
theorem consistent_congr {s t : State} (h : Consistent s) (status : t.status = s.status) (q0 : t.q0 = s.q0)
    (q1 : t.q1 = s.q1) (cmd : t.cmd = s.cmd) (burnAmt : t.burnAmt = s.burnAmt) (trace : t.trace = s.trace) :
    Consistent t := by
  simpa only [Consistent, NothingShown, ResultShown, FailureShown, RejectionShown, status, q0, q1, cmd, burnAmt, trace]
    using h

theorem consistent_writeData {s : State} (h : Consistent s) (r : Option Reg) (data : Nat) :
    Consistent (writeData r data (nextLine s)) := by
  obtain ⟨status, q0, q1, cmd, burnAmt, trace, -⟩ := writeData_frame r data (nextLine s)
  exact consistent_congr h status q0 q1 cmd burnAmt trace

theorem resultShown_completed (i : Instr) (q0 q1 : Word) (s : State) :
    ResultShown (completed (instrCode i) (.ok q0 q1) s) :=
  ⟨rfl, rfl, rfl, rfl, rfl, Option.isSome_of_eq_some (decodeCode_instrCode i), q0, q1, s.trace, rfl, rfl, rfl⟩

theorem failureShown_completed (kind : ErrorKind) (amount : Budget) (s : State) :
    FailureShown (completed (instrCode .ecadd) (.fail kind amount) s) :=
  ⟨rfl, rfl, rfl, rfl, rfl, rfl, rfl, amount, kind, s.trace, rfl, rfl⟩

theorem rejectionShown_completed {code : Byte} (reserved : decodeCode code = none) (s : State) :
    RejectionShown (completed code .illegal s) :=
  ⟨rfl, rfl, rfl, rfl, rfl, rfl, rfl, Option.isSome_eq_false_iff.2 (Option.isNone_iff_eq_none.2 reserved), s.trace, rfl⟩

/-- A command leaves a consistent state, whatever the state it started in. -/
theorem consistent_completed {i : Instr} {s : State} {out : CommandOutcome}
    (sampled : sampledOutcome i s = .ok out) : Consistent (completed (instrCode i) out s) := by
  cases out with
  | ok q0 q1 => exact .inl (resultShown_completed i q0 q1 s)
  | fail kind amount =>
    obtain rfl := sampledOutcome_fail sampled
    exact .inr (.inl (failureShown_completed kind amount s))
  | illegal => exact absurd sampled (sampledOutcome_ne_illegal i s)
  | diverge =>
    refine ⟨⟨rfl, rfl, rfl, rfl, rfl, rfl, rfl⟩, ?_⟩
    exact (sampledOutcome_diverge sampled).imp (congrArg instrCode) (congrArg instrCode)

/-- Settles O16: a step that issues nothing keeps what the invariant speaks of or resets it, and each end of a command
is consistent by itself. -/
theorem stepKeepsConsistent : Obligations.StepKeepsConsistent := by
  intro s t consistent stepped
  cases step_effect stepped with
  | kept same =>
    rw [same]
    exact consistent
  | reset _ eq =>
    rw [eq]
    exact consistent_reset
  | wrote _ r data eq => exact eq ▸ consistent_writeData consistent r data
  | issued _ _ i out sampled eq => exact eq ▸ consistent_completed sampled
  | rejected _ _ code reserved eq => exact eq ▸ .inr (.inr (rejectionShown_completed reserved _))

/-- Settles O17: of the five effects only reset, a command and a rejection touch the phase. -/
theorem onlyCommandsAndResetChangeThePhase : Obligations.OnlyCommandsAndResetChangeThePhase := by
  intro s t stepped changed
  cases step_effect stepped with
  | kept same =>
    rw [same] at changed
    exact absurd rfl changed
  | reset fetched eq => exact .inl ⟨fetched, eq ▸ rfl⟩
  | wrote _ r data eq =>
    obtain ⟨status, -⟩ := writeData_frame r data (nextLine s)
    rw [eq, status] at changed
    exact absurd rfl changed
  | issued ended line i out _ eq => exact .inr ⟨ended, eq ▸ completed_phase_ne_idle _ _ _, line⟩
  | rejected ended line code _ eq => exact .inr ⟨ended, eq ▸ completed_phase_ne_idle _ _ _, line⟩

/-! Runs of several steps. -/

theorem run_succ_of_step {s t : State} (stepped : step s = .next t) (n : Nat) :
    Sys2Proof.core.run (n + 1) s = Sys2Proof.core.run n t := by
  simp only [Host.Core.run, Sys2Proof.core, stepped]

theorem run_succ_cases {n : Nat} {s t : State} (ran : Sys2Proof.core.run (n + 1) s = .next t) :
    ∃ u, step s = .next u ∧ Sys2Proof.core.run n u = .next t := by
  cases stepped : step s with
  | next u => exact ⟨u, rfl, (run_succ_of_step stepped n).symm.trans ran⟩
  | fault r => cases r
  | refused r => simp [Host.Core.run, Sys2Proof.core, stepped] at ran

theorem reset_mem_script {s : State} (fetched : fetchLine s = some .reset) : HostLine.reset ∈ s.script :=
  List.mem_of_getElem? fetched

/-- While BUSY the only effect a step can have on the core is the reset event's. -/
theorem step_kept_of_busy {s t : State} (busy : s.status.phase = .busy) (no_reset : HostLine.reset ∉ s.script)
    (stepped : step s = .next t) : CoreKept s t := by
  cases step_effect stepped with
  | kept same => exact same
  | reset fetched => exact absurd (reset_mem_script fetched) no_reset
  | wrote ended | issued ended | rejected ended => exact absurd busy ended

/-- Settles O18: each step keeps the core, so the core is BUSY for the next one. -/
theorem hungCoreStaysHung : Obligations.HungCoreStaysHung := by
  intro n
  induction n with
  | zero =>
    intro s t _ _ ran
    obtain rfl := Host.Outcome.next.inj ran
    rfl
  | succ n ih =>
    intro s t busy no_reset ran
    obtain ⟨u, stepped, rest⟩ := run_succ_cases ran
    have same : CoreKept s u := step_kept_of_busy busy no_reset stepped
    have busy' : u.status.phase = .busy := by rw [same, busy]
    have no_reset' : HostLine.reset ∉ u.script := by rwa [same]
    exact same.trans (ih u t busy' no_reset' rest)

end Sys2Proof.Proofs

/-! The host port and the script (20_memory.md rules R51 to R55, 30_encoding.md rules R70 to R79), line by line; the
layout of the status word (10_state.md rule R28) and the state after reset (R38). -/

namespace Sys2Proof.Proofs

open Sys2Proof Sys2Proof.Machine

/-! Reset (R38, R230). -/

/-- Settles O1: the table of R38, entry by entry. -/
theorem resetValues : Obligations.ResetValues :=
  ⟨rfl, rfl, rfl, rfl, rfl, rfl, rfl, rfl, rfl, rfl, rfl, rfl⟩

/-- Settles O2: the line of the reset event looks at no phase. -/
theorem resetEventFromAnyState : Obligations.ResetEventFromAnyState := by
  intro s fetched
  rw [step_of_fetch fetched]
  rfl

/-! Decoding and encoding (R70, R77). -/

theorem decode_eq_ok {bytes rest : List Byte} {i : Instr} (decoded : decode bytes = .ok i rest) :
    bytes = instrCode i :: rest := by
  cases bytes with
  | nil => cases decoded
  | cons code tail =>
    cases found : decodeCode code with
    | none => simp [decode, found] at decoded
    | some j =>
      simp only [decode, found, DecodeResult.ok.injEq] at decoded
      obtain ⟨rfl, rfl⟩ := decoded
      rw [decodeCode_eq_some_iff.1 found]

theorem tableBytes_of_byte (code : Byte) : tableBytes 8 code.toNat = [code] := by
  have fits : code.toNat % 256 = code.toNat := Nat.mod_eq_of_lt code.isLt
  simp [tableBytes, fits]

/-- Settles O4: a command is its one code byte, for the decoder, the encoder and the table. -/
theorem decodeEncodeAgree : Obligations.DecodeEncodeAgree := by
  refine ⟨fun i rest _ => decode_instrCode i rest, fun bytes rest i decoded => decode_eq_ok decoded, fun i => ?_⟩
  rw [decodeTableWord, tableBytes_of_byte, decode_instrCode]

/-! Reads at the port (R22, R51). -/

theorem readReg_of_unheld {r : Reg} {s : State} (unheld : holdsValue r s = false) :
    readReg r s = .error (.readHoldsNoValue r) := by
  cases r with
  | cmd | status => cases unheld
  | a0 | a1 | a2 | a3 | q0 | q1 | budget | burnAmt =>
    rw [holdsValue, Option.isSome_eq_false_iff, Option.isNone_iff_eq_none] at unheld
    simp [readReg, readReg.valueOr, unheld]

theorem readIndex_regIndex (r : Reg) (s : State) : readIndex (regIndex r) s = readReg r s := by
  rw [readIndex, regAt_regIndex]

/-- Settles O9: a read at a register's index is a read of the register. -/
theorem readOfNoValueIsRefused : Obligations.ReadOfNoValueIsRefused := by
  intro s r unheld
  rw [hostRead, readIndex_regIndex, readReg_of_unheld unheld]

theorem hostRead_of_ok {index : RegIndex} {v : Nat} {s : State} (h : readIndex index s = .ok v) :
    hostRead index s = .next (recordRead index v s) := by
  rw [hostRead, h]

theorem hostRead_of_error {index : RegIndex} {r : Refusal} {s : State} (h : readIndex index s = .error r) :
    hostRead index s = .refused r := by
  rw [hostRead, h]

theorem hostRead_reserved {index : RegIndex} (h : 10 ≤ index) (s : State) :
    hostRead index s = .refused (.readReservedIndex index) := by
  refine hostRead_of_error ?_
  rw [readIndex, regAt_reserved h]

/-- A register that holds a word reads as the word's number. -/
theorem readReg_of_held {s : State} {v : Word} :
    (s.a0 = some v → readReg .a0 s = .ok v.toNat) ∧ (s.a1 = some v → readReg .a1 s = .ok v.toNat)
      ∧ (s.a2 = some v → readReg .a2 s = .ok v.toNat) ∧ (s.a3 = some v → readReg .a3 s = .ok v.toNat)
      ∧ (s.q0 = some v → readReg .q0 s = .ok v.toNat) ∧ (s.q1 = some v → readReg .q1 s = .ok v.toNat) := by
  refine ⟨?_, ?_, ?_, ?_, ?_, ?_⟩ <;> intro held <;> simp [readReg, readReg.valueOr, held]

theorem readReg_budgets {s : State} {v : Budget} :
    (s.budget = some v → readReg .budget s = .ok v.toNat)
      ∧ (s.burnAmt = some v → readReg .burnAmt s = .ok v.toNat) := by
  refine ⟨?_, ?_⟩ <;> intro held <;> simp [readReg, readReg.valueOr, held]

theorem readIndex_result {j : Fin 2} {s : State} {v : Word} (held : resultOf j s = some v) :
    readIndex (resultIndex j) s = .ok v.toNat := by
  obtain ⟨-, -, -, -, q0, q1⟩ := readReg_of_held (s := s) (v := v)
  match j with
  | 0 => exact q0 held
  | 1 => exact q1 held

theorem readIndex_result_none {j : Fin 2} {s : State} (unheld : resultOf j s = none) :
    readIndex (resultIndex j) s = .error (.readHoldsNoValue (if j = 0 then .q0 else .q1)) := by
  match j with
  | 0 => exact readReg_of_unheld (r := .q0) (Option.isSome_eq_false_iff.2 (Option.isNone_iff_eq_none.2 unheld))
  | 1 => exact readReg_of_unheld (r := .q1) (Option.isSome_eq_false_iff.2 (Option.isNone_iff_eq_none.2 unheld))

/-! Writes at the port (R51, R55). -/

theorem hostWrite_busy {s : State} (busy : s.status.phase = .busy) (index : RegIndex) (data : Nat) :
    hostWrite index data s = .next s := by
  rw [hostWrite, if_pos busy]

/-- Settles O10: both entrances test the phase first. -/
theorem busyDropsWrites : Obligations.BusyDropsWrites := by
  refine fun s busy => ⟨hostWrite_busy busy, fun i => ?_⟩
  rw [exec_eq_issue, issueCommand_busy busy]

theorem hostWrite_dropped {index : RegIndex} (h : index = 4 ∨ index = 5 ∨ index = 7 ∨ 9 ≤ index) (data : Nat)
    (s : State) : hostWrite index data s = .next s := by
  by_cases ended : runEnded s
  case neg => exact hostWrite_busy (not_not.1 ended) index data
  case pos =>
    obtain reg | reg | reg | reg | reg := regAt_dropped h <;>
      rw [hostWrite_data ended (by rw [reg]; exact nofun), reg] <;> rfl

theorem hostWrite_operand {s : State} (ended : runEnded s) (i : Fin 4) (v : Word) :
    hostWrite (operandIndex i) v.toNat s = .next (setOperand i v s) := by
  have stored : BitVec.ofNat 256 v.toNat = v := by rw [BitVec.ofNat_toNat, BitVec.setWidth_eq]
  rw [hostWrite_data ended (by revert i; decide), regAt_operandIndex]
  match i with
  | 0 | 1 | 2 | 3 => simp [writeData, setOperand, stored]

theorem hostWrite_budget {s : State} (ended : runEnded s) (v : Budget) :
    hostWrite 8 v.toNat s = .next { s with budget := some v } := by
  rw [hostWrite_data ended (by decide), regAt_budget]
  simp only [writeData, BitVec.ofNat_toNat, BitVec.setWidth_eq]

/-- Settles O8: index by index, what the port's reads and writes do to the register there. -/
theorem registerIndexMap : Obligations.RegisterIndexMap := by
  refine ⟨fun s v ended => ?_, fun s code ended => hostWrite_cmd code ended,
    fun s v ended => hostWrite_budget ended v, fun s index data h => hostWrite_dropped h data s,
    fun s v => readReg_of_held, fun s => ⟨rfl, rfl⟩, fun s v => readReg_budgets,
    fun s index h => hostRead_reserved h s⟩
  exact ⟨hostWrite_operand ended 0 v, hostWrite_operand ended 1 v, hostWrite_operand ended 2 v,
    hostWrite_operand ended 3 v⟩

/-! The lines of a script (R78). -/

theorem step_wr {s : State} {index : RegIndex} {v : Value} {n : Nat} (fetched : fetchLine s = some (.wr index v))
    (value : scriptValue v s = some n) : step s = hostWrite index n (nextLine s) := by
  rw [step_of_fetch fetched, runLine, runWrite, value]
  rfl

theorem step_wr_nothing_read {s : State} {index : RegIndex} {v : Value} (fetched : fetchLine s = some (.wr index v))
    (value : scriptValue v s = none) : step s = .refused .scriptNothingRead := by
  rw [step_of_fetch fetched, runLine, runWrite, value]

theorem step_rd {s : State} {index : RegIndex} (fetched : fetchLine s = some (.rd index)) :
    step s = hostRead index (nextLine s) := by
  rw [step_of_fetch fetched]
  rfl

theorem step_rd_of_ok {s : State} {index : RegIndex} {v : Nat} (fetched : fetchLine s = some (.rd index))
    (value : readIndex index s = .ok v) :
    step s = .next { s with line := s.line + 1, reads := s.reads ++ [⟨index, v⟩] } := by
  rw [step_rd fetched]
  exact hostRead_of_ok value

/-- A byte written to `CMD` while no command runs is the command it decodes to. -/
theorem hostWrite_code {s : State} {code : Byte} {i : Instr} {rest : List Byte} (ended : runEnded s)
    (decoded : decode [code] = .ok i rest) : hostWrite 6 code.toNat s = exec i s := by
  rw [hostWrite_cmd code ended, writeCmd, decoded]

theorem step_command {s : State} {i : Instr} (ended : runEnded s) (fetched : fetchLine s = some (.command i)) :
    step s = exec i (nextLine s) := by
  rw [step_of_fetch fetched]
  exact hostWrite_code (s := nextLine s) ended (decode_instrCode i [])

/-- Settles O5: a line that writes `CMD` is the write of its byte, and the byte is the command it decodes to. -/
theorem stepRunsDecodedCommand : Obligations.StepRunsDecodedCommand := by
  refine ⟨fun s v code i rest fetched value ended decoded _ => ?_, fun s i fetched ended => step_command ended fetched⟩
  rw [step_wr fetched value]
  exact hostWrite_code (s := nextLine s) ended decoded

theorem step_wait_done {s : State} (fetched : fetchLine s = some .wait) (done : s.status.phase = .done) :
    step s = .next { s with line := s.line + 1, reads := s.reads ++ [⟨7, (statusWord s.status).toNat⟩] } := by
  rw [step_of_fetch fetched, runLine, runWait, if_pos done]
  rfl

theorem step_wait_not_done {s : State} (fetched : fetchLine s = some .wait) (waiting : s.status.phase ≠ .done) :
    step s = .next { s with reads := s.reads ++ [⟨7, (statusWord s.status).toNat⟩] } := by
  rw [step_of_fetch fetched, runLine, runWait, if_neg waiting]
  rfl

/-- `IFSET` with a `STATUS` value read: the field decides between the label and the next line. -/
theorem step_ifset {s : State} {field : StatusField} {target v : Nat}
    (fetched : fetchLine s = some (.ifset field target)) (read : lastStatusRead s = some v) :
    step s = if fieldOf field v = 1 then
        (labelLine target s.script).elim (.refused (.scriptNoSuchLabel target)) fun k => .next { s with line := k }
      else .next (nextLine s) := by
  rw [step_of_fetch fetched, runLine, runIfset, read]
  cases labelLine target s.script <;> rfl

theorem step_ifset_no_status {s : State} {field : StatusField} {target : Nat}
    (fetched : fetchLine s = some (.ifset field target)) (read : lastStatusRead s = none) :
    step s = .refused .scriptNoStatusRead := by
  rw [step_of_fetch fetched, runLine, runIfset, read]

/-- `RUN` (R79): the mnemonic's step, then the first step of its `WAIT`. -/
theorem run_expandPseudo_run {s t : State} {i : Instr} (ended : runEnded s)
    (first : s.script[s.line]? = (expandPseudo (.run i))[0]?)
    (second : s.script[s.line + 1]? = (expandPseudo (.run i))[1]?) (issued : exec i (nextLine s) = .next t) :
    (t.status.phase = .done → Sys2Proof.core.run 2 s
        = .next { t with line := s.line + 2, reads := s.reads ++ [⟨7, (statusWord t.status).toNat⟩] })
      ∧ (t.status.phase ≠ .done → Sys2Proof.core.run 2 s
        = .next { t with line := s.line + 1, reads := s.reads ++ [⟨7, (statusWord t.status).toNat⟩] }) := by
  obtain ⟨-, -, -, -, -, script, line, reads, -⟩ := commandFrame i _ t issued
  have at_wait : fetchLine t = some .wait := by
    rw [fetchLine, script, line]
    exact second
  have first_step : step s = .next t := (step_command ended first).trans issued
  refine ⟨fun done => ?_, fun waiting => ?_⟩ <;> rw [run_succ_of_step first_step]
  · rw [run_succ_of_step (step_wait_done at_wait done), line, reads]
    rfl
  · rw [run_succ_of_step (step_wait_not_done at_wait waiting), reads, ← nextLine_line, ← line]
    rfl

/-- Settles O6: each line of the script by its own equation. -/
theorem scriptLinesAct : Obligations.ScriptLinesAct := by
  refine ⟨fun s index v n => step_wr, fun s index v => step_wr_nothing_read, fun s index r fetched refused => ?_,
    fun s index v => step_rd_of_ok, fun s => step_wait_done, fun s => step_wait_not_done,
    fun s field target v k fetched read set found => ?_, fun s field target v fetched read clear => ?_,
    fun s field target => step_ifset_no_status, fun s field target v fetched read set missing => ?_,
    fun s name fetched => step_of_fetch fetched, fun s fetched => step_of_fetch fetched, fun s => step_at_end,
    fun s t i => run_expandPseudo_run⟩
  · rw [step_rd fetched]
    exact hostRead_of_error refused
  · rw [step_ifset fetched read, if_pos set, found]
    rfl
  · rw [step_ifset fetched read, if_neg clear]
    rfl
  · rw [step_ifset fetched read, if_pos set, missing]
    rfl

/-! Pseudo-commands that move words (R53, R79). -/

theorem lastRead_recordRead (index : RegIndex) (v : Nat) (s : State) : lastRead (recordRead index v s) = some v := by
  simp [lastRead]

theorem step_wr_operand {s : State} {i : Fin 4} {value : Value} {v : Word} (ended : runEnded s)
    (fetched : fetchLine s = some (.wr (operandIndex i) value)) (found : scriptValue value s = some v.toNat) :
    step s = .next (setOperand i v (nextLine s)) :=
  (step_wr fetched found).trans (hostWrite_operand (s := nextLine s) ended i v)

/-- Settles O7: the read's value is the last one read when the write comes. -/
theorem movqCopiesResult : Obligations.MovqCopiesResult := by
  intro s dst src v ended held first second
  have read : step s = .next (recordRead (resultIndex src) v.toNat (nextLine s)) :=
    step_rd_of_ok first (readIndex_result held)
  have wrote := step_wr_operand (s := recordRead (resultIndex src) v.toNat (nextLine s)) ended second
    (lastRead_recordRead _ _ _)
  rw [run_succ_of_step read, run_succ_of_step wrote]
  rfl

/-- The four writes of `LDPT` and `LDIN`. -/
theorem run_loadPoints {s : State} {x1 y1 x2 y2 : Word} (ended : runEnded s)
    (lines : ∀ k, k < 4 → s.script[s.line + k]? = (loadPoints x1.toNat y1.toNat x2.toNat y2.toNat)[k]?) :
    Sys2Proof.core.run 4 s
      = .next { s with a0 := some x1, a1 := some y1, a2 := some x2, a3 := some y2, line := s.line + 4 } := by
  have wrote_x1 := step_wr_operand (i := 0) ended (lines 0 (by decide)) rfl
  have wrote_y1 := step_wr_operand (i := 1) (s := setOperand 0 x1 (nextLine s)) ended (lines 1 (by decide)) rfl
  have wrote_x2 := step_wr_operand (i := 2) (s := setOperand 1 y1 (nextLine (setOperand 0 x1 (nextLine s)))) ended
    (lines 2 (by decide)) rfl
  have wrote_y2 := step_wr_operand (i := 3)
    (s := setOperand 2 x2 (nextLine (setOperand 1 y1 (nextLine (setOperand 0 x1 (nextLine s)))))) ended
    (lines 3 (by decide)) rfl
  rw [run_succ_of_step wrote_x1, run_succ_of_step wrote_y1, run_succ_of_step wrote_x2, run_succ_of_step wrote_y2]
  rfl

theorem wordBytes_windowWord {bytes : List Byte} {i : Nat} (h : 32 * i + 32 ≤ bytes.length) :
    wordBytes (windowWord bytes i) = (bytes.drop (32 * i)).take 32 := by
  refine wordBytes_bytesWord ?_
  rw [List.length_take, List.length_drop]
  omega

/-- Four windows of 32 bytes are the 128 bytes. -/
theorem windowWords_bytes {bytes : List Byte} (h128 : bytes.length = 128) :
    wordBytes (windowWord bytes 0) ++ wordBytes (windowWord bytes 1) ++ wordBytes (windowWord bytes 2)
      ++ wordBytes (windowWord bytes 3) = bytes := by
  have split (n : Nat) : (bytes.drop n).take 32 ++ bytes.drop (n + 32) = bytes.drop n := by
    rw [← List.drop_drop, List.take_append_drop]
  have no_more : bytes.drop 128 = [] := List.drop_eq_nil_of_le h128.le
  have fourth := split 96
  rw [no_more, List.append_nil] at fourth
  rw [wordBytes_windowWord (by omega), wordBytes_windowWord (by omega), wordBytes_windowWord (by omega),
    wordBytes_windowWord (by omega), fourth, List.append_assoc, split 64, List.append_assoc, split 32, split 0,
    List.drop_zero]

theorem memRead_of_ok {j : Fin 2} {s : State} {v : Word} (h : readIndex (resultIndex j) s = .ok v.toNat) :
    memRead j s = .ok (wordBytes v) := by
  rw [memRead, h]
  simp only [BitVec.ofNat_toNat, BitVec.setWidth_eq]

theorem memRead_of_error {j : Fin 2} {s : State} {r : Refusal} (h : readIndex (resultIndex j) s = .error r) :
    memRead j s = .error r := by
  rw [memRead, h]

/-- `STOUT`: the two reads of the output window. -/
theorem run_stout {s : State} {x y : Word} (hx : s.q0 = some x) (hy : s.q1 = some y)
    (first : s.script[s.line]? = (expandPseudo .stout)[0]?)
    (second : s.script[s.line + 1]? = (expandPseudo .stout)[1]?) :
    Sys2Proof.core.run 2 s
      = .next { s with line := s.line + 2, reads := s.reads ++ [⟨4, x.toNat⟩, ⟨5, y.toNat⟩] } := by
  have read_x := step_rd_of_ok first (readIndex_result (j := 0) hx)
  have read_y := step_rd_of_ok (s := { s with line := s.line + 1, reads := s.reads ++ [⟨4, x.toNat⟩] }) second
    (readIndex_result (j := 1) hy)
  rw [run_succ_of_step read_x]
  refine (run_succ_of_step read_y 0).trans ?_
  simp [Host.Core.run, regIndex]

/-- Settles O13: the writes and reads of the windows are those of the registers under them. -/
theorem byteWindowAccesses : Obligations.ByteWindowAccesses := by
  refine ⟨fun s bytes ended h128 lines => ?_, fun s x1 y1 x2 y2 ended lines => run_loadPoints ended lines,
    fun s i bytes ended h32 => ⟨bytesWord bytes, wordBytes_bytesWord h32, hostWrite_operand ended i _⟩,
    fun s j v held => memRead_of_ok (readIndex_result held),
    fun s j unheld => memRead_of_error (readIndex_result_none unheld),
    fun s x y hx hy first second => ⟨run_stout hx hy first second, outWindow_of_held hx hy⟩⟩
  exact ⟨_, run_loadPoints ended lines, congrArg some (windowWords_bytes h128), rfl⟩

/-! The status word (R28). -/

theorem getLsbD_eq_decide (v : BitVec 32) (k : Nat) : v.getLsbD k = decide (v.toNat / 2 ^ k % 2 = 1) := by
  rw [BitVec.getLsbD, Nat.testBit_eq_decide_div_mod_eq]

theorem statusWord_phase (st : Status) : ((statusWord st).extractLsb' 0 2).toNat = phaseCode st.phase := by
  have phase_lt := phaseCode_lt st.phase
  rw [BitVec.extractLsb'_toNat, statusWord_toNat, Nat.shiftRight_zero]
  omega

/-- A flag's bit is its digit in the status word's number. -/
theorem statusWord_flag {st : Status} {k : Nat} {flag : Bool} (digit : (statusWord st).toNat / 2 ^ k % 2 = flag.toNat) :
    (statusWord st).getLsbD k = flag := by
  rw [getLsbD_eq_decide, digit]
  cases flag <;> rfl

/-- Settles O14: the fields are the digits of the word's number, and nothing stands above them. -/
theorem statusWordLayout : Obligations.StatusWordLayout := by
  intro st
  have number := statusWord_toNat st
  have phase_lt := phaseCode_lt st.phase
  have outv_lt := st.outv.toNat_lt
  have abort_lt := st.abort.toNat_lt
  have burnReq_lt := st.burnReq.toNat_lt
  have illCmd_lt := st.illCmd.toNat_lt
  rw [statusWord_phase]
  refine ⟨fun h => by rw [h]; rfl, fun h => by rw [h]; rfl, fun h => by rw [h]; rfl, statusWord_flag (by omega),
    statusWord_flag (by omega), statusWord_flag (by omega), statusWord_flag (by omega), fun k above => ?_⟩
  have below : (statusWord st).toNat < 2 ^ k := by
    calc (statusWord st).toNat < 2 ^ 6 := by omega
      _ ≤ 2 ^ k := Nat.pow_le_pow_right (by decide) above
  exact Nat.testBit_lt_two_pow below

/-! After the failure path (R53, R203). -/

/-- A consistent core that shows an abort holds no result. -/
theorem q0_eq_none_of_abort {s : State} (consistent : Consistent s) (abort : s.status.abort = true) : s.q0 = none := by
  unfold Consistent at consistent
  split at consistent
  · obtain ⟨⟨-, -, -, -, q0, -⟩, -⟩ := consistent
    exact q0
  · obtain ⟨⟨-, -, -, -, q0, -⟩, -⟩ := consistent
    exact q0
  · obtain ⟨-, no_abort, -⟩ | ⟨-, -, -, -, q0, -⟩ | ⟨-, -, -, -, q0, -⟩ := consistent
    · exact absurd (abort.symm.trans no_abort) Bool.noConfusion
    · exact q0
    · exact q0

/-- Settles O59: ECADD leaves a consistent state, and one that shows an abort holds no result. -/
theorem noOutputBytesOnFailure : Obligations.NoOutputBytesOnFailure := by
  intro s t consistent stepped abort
  have consistent' : Consistent t := by
    obtain ⟨-, rfl⟩ | ⟨-, out, sampled, rfl⟩ := exec_next_cases stepped
    · exact consistent
    · exact consistent_completed sampled
  rw [outWindow, q0_eq_none_of_abort consistent' abort]

end Sys2Proof.Proofs
